-- ==== Sys2Proof/Word.lean ====
section
/-! DEFINITION. The two word widths of the block: a byte of the packet and a word of the host bus. -/

namespace Sys2Proof

/-- An unsigned byte 0..255 (00_scope R11). -/
abbrev Byte := BitVec 8

/-- A 32-bit word of the host bus (20_memory R60). -/
abbrev Word := BitVec 32

end Sys2Proof
end

