-- ==== Sys2Proof/Config.lean ====
section
/-! DEFINITION. The parameters of the block: the fixed ones (00_scope R6 to R8), the command-byte table's type
(30_encoding R105) and the free values, which have no body. -/

namespace Sys2Proof

/-- The eight packet variants, in the order of 30_encoding R104. -/
inductive Variant where
  | initrq | initrs | rbrq | rbrs | rarq | rars | warq | wars
deriving DecidableEq, Repr

/-- CMD_TABLE: the command byte of each variant (30_encoding R105), as plain data. -/
structure CmdTable where
  initrq : Byte
  initrs : Byte
  rbrq : Byte
  rbrs : Byte
  rarq : Byte
  rars : Byte
  warq : Byte
  wars : Byte
deriving DecidableEq, Repr

namespace Config

/-- MARKER, the byte at offset 0 of every packet (00_scope R6). -/
def marker : Byte := 0x80#8

/-- MIN_TOTAL: header and checksum with no payload (00_scope R6). -/
def minTotal : Nat := 6

/-- MAX_TOTAL, which is also PKT_CAP, the size of PKT (00_scope R6, R8). -/
def maxTotal : Nat := 260

/-- STG_CAP, the size of STG (00_scope R8). -/
def stgCap : Nat := 256

/-- RA_MAX_DEFAULT, the reset value of CONFIG.RA_MAX (00_scope R6). -/
def raMaxDefault : Nat := 36

/-- RA_MAX_CEIL (00_scope R6). -/
def raMaxCeil : Nat := 84

/-- DATA_MAX, the most data bytes a data response can hold (00_scope R7). -/
def dataMax : Nat := 254

/-- CAPS_MAX, the most capability bytes an init response can hold (00_scope R7). -/
def capsMax : Nat := 246

/-- The ID register's constant (10_state R32). -/
def idValue : Word := 0x53534D32#32

/-- PKT_RESET: the byte PKT[offset] holds after reset number `epoch`, until it is written. FREE VALUE
(10_state R41, 70_reset R320; log 3). -/
opaque pktReset (epoch offset : Nat) : Byte

/-- STG_RESET, likewise for STG (10_state R41, 70_reset R320; log 3). -/
opaque stgReset (epoch offset : Nat) : Byte

/-- OP_LATENCY: for how many host-visible steps BUSY stays 1 after the operation word `word` is accepted with
TOTLEN = `totlen` and ARG0 = `arg0`. FREE VALUE, a fresh one per `draw` (70_reset R333; log 4). -/
opaque opLatency (word : Word) (totlen : Nat) (arg0 : Word) (draw : Nat) : Nat

/-- The word a host read at offset `addr` returns while BUSY = 1, other than of STATUS. FREE VALUE, a fresh one
per `draw` (70_reset R332; log 5). -/
opaque busyRead (addr : BitVec 14) (draw : Nat) : Word

/-- HOST_BASE: where the platform maps the block's address 0x0000. FREE VALUE (20_memory R71; log 6). -/
opaque hostBase : Nat

end Config

end Sys2Proof
end

