-- ==== Sys2Proof/Syntax.lean ====
section
/-! DEFINITION. The syntax: one constructor for each row of spec/opcode_table.json, thirty operations the host
issues through CMD (30_encoding R91) and the eight wire variants a command byte selects (30_encoding R105). -/

namespace Sys2Proof

/-- An instruction of the block. The first thirty are the operations of 30_encoding R91; only NEW carries an
operand in its word, the variant code VAR (R90), as the four bits stand there. The last eight are the wire
variants: a raw packet in PKT is one of them by its command byte at offset 4 (R107), and its other bytes are the
operands, which lie in PKT. -/
inductive Instr where
  | new (var : BitVec 4)
  | decode
  | finish
  | check
  | csum
  | release
  | setDest
  | setSrc
  | setAddr
  | setCount
  | setData
  | setDatas
  | setAddrs
  | setId3
  | setId5
  | setCaps
  | getDest
  | getSrc
  | getAddr
  | getCount
  | getData
  | getDatacount
  | getAddrcount
  | getId3
  | getCaplen
  | getLen
  | getCmd
  | getChecksum
  | getKey
  | getHeader
  | initrq
  | initrs
  | rbrq
  | rbrs
  | rarq
  | rars
  | warq
  | wars
deriving DecidableEq, Repr

end Sys2Proof
end

