-- ==== Sys2Proof/WellFormed.lean ====
section
/-! DEFINITION. Well-formed instructions: the one check the encoding makes on an operand (30_encoding R92, R93). -/

namespace Sys2Proof

/-- NEW needs a variant code 1 to 8; every other instruction carries no operand of its own (30_encoding R92). -/
def Instr.WellFormed : Instr → Prop
  | .new var => 1 ≤ var.toNat ∧ var.toNat ≤ 8
  | .decode | .finish | .check | .csum | .release => True
  | .setDest | .setSrc | .setAddr | .setCount | .setData => True
  | .setDatas | .setAddrs | .setId3 | .setId5 | .setCaps => True
  | .getDest | .getSrc | .getAddr | .getCount | .getData => True
  | .getDatacount | .getAddrcount | .getId3 | .getCaplen => True
  | .getLen | .getCmd | .getChecksum | .getKey | .getHeader => True
  | .initrq | .initrs | .rbrq | .rbrs | .rarq | .rars | .warq | .wars => True

end Sys2Proof
end

