-- ==== Sys2Proof/Decode.lean ====
section
/-! DEFINITION. The decoder of operation words (30_encoding R90 to R93) and of command bytes (R105 to R107), total
and rejecting by name, and after it the encoder of both. Command bytes are decoded and encoded under a CMD_TABLE that is
a parameter (R105). -/

namespace Sys2Proof

/-! ### Variant codes and command bytes -/

/-- The eight variants in code order (30_encoding R104). -/
def allVariants : List Variant := [.initrq, .initrs, .rbrq, .rbrs, .rarq, .rars, .warq, .wars]

/-- The variant code 1 to 8 (30_encoding R104). -/
def Variant.code : Variant → Nat
  | .initrq => 1
  | .initrs => 2
  | .rbrq => 3
  | .rbrs => 4
  | .rarq => 5
  | .rars => 6
  | .warq => 7
  | .wars => 8

/-- The variant a code names, if it is 1 to 8 (30_encoding R104). -/
def variantOfCode (c : Nat) : Option Variant := allVariants.find? fun v => v.code == c

/-- CMD(v) in a table (30_encoding R105). -/
def CmdTable.byte (t : CmdTable) : Variant → Byte
  | .initrq => t.initrq
  | .initrs => t.initrs
  | .rbrq => t.rbrq
  | .rbrs => t.rbrs
  | .rarq => t.rarq
  | .rars => t.rars
  | .warq => t.warq
  | .wars => t.wars

/-- Dispatch: the variant whose command byte is the whole byte `b` (30_encoding R107). -/
def CmdTable.variantOf (t : CmdTable) (b : Byte) : Option Variant := allVariants.find? fun v => t.byte v == b

/-- A table the spec admits: its eight bytes are distinct and the four that the source gives stand
(30_encoding R105; 93_implementation_defined I11). -/
def CmdTable.Legal (t : CmdTable) : Prop :=
  (∀ v w, t.byte v = t.byte w → v = w) ∧
    t.initrq = 0xBF#8 ∧ t.rbrs = 0xE0#8 ∧ t.rarq = 0xA8#8 ∧ t.wars = 0xF8#8

/-- The default CMD_TABLE (30_encoding R105), the one the bytes of spec/opcode_table.json are read under and the reset
state holds. INITRQ, RBRS, RARQ and WARS are the source's bytes; INITRS, RBRQ, RARS and WARQ are PRESUMED, from the
spec's general knowledge of the protocol; unsafe for a claim about those bytes themselves (log 2). -/
def defaultCmdTable : CmdTable where
  initrq := 0xBF#8
  initrs := 0xFF#8
  rbrq := 0xA0#8
  rbrs := 0xE0#8
  rarq := 0xA8#8
  rars := 0xE8#8
  warq := 0xB8#8
  wars := 0xF8#8

/-- The wire instruction of a variant. -/
def Variant.instr : Variant → Instr
  | .initrq => .initrq
  | .initrs => .initrs
  | .rbrq => .rbrq
  | .rbrs => .rbrs
  | .rarq => .rarq
  | .rars => .rars
  | .warq => .warq
  | .wars => .wars

/-! ### The decoder -/

/-- Why a word or a byte is no instruction. -/
inductive Reject where
  /-- Bits [31:12] are not 0 (30_encoding R93). -/
  | reservedBits
  /-- The OPC is none of the thirty (30_encoding R93). -/
  | unassignedOpc
  /-- NEW with VAR 0 or 9 to 15 (30_encoding R93). -/
  | badVariant
  /-- VAR is not 0 and the OPC is not that of NEW (30_encoding R93). -/
  | strayVariant
  /-- A command byte that is not in CMD_TABLE (30_encoding R106). -/
  | unrecognizedCommand
deriving DecidableEq, Repr

/-- What the decoder answers: an instruction, or the name of the reason there is none. -/
inductive Decoded where
  | instr (i : Instr)
  | rejected (r : Reject)
deriving DecidableEq, Repr

/-- The instruction, where there is one. -/
def Decoded.toOption : Decoded → Option Instr
  | .instr i => some i
  | .rejected _ => none

/-- The OPC of NEW (30_encoding R91). -/
def opcNew : Byte := 0x01#8

/-- The rows of 30_encoding R91 but for NEW, whose word has an operand. -/
def opcodeRows : List (Byte × Instr) :=
  [(0x02#8, .decode), (0x03#8, .finish), (0x04#8, .check), (0x05#8, .csum), (0x06#8, .release)] ++
  [(0x10#8, .setDest), (0x11#8, .setSrc), (0x12#8, .setAddr), (0x13#8, .setCount), (0x14#8, .setData),
   (0x15#8, .setDatas), (0x16#8, .setAddrs), (0x17#8, .setId3), (0x18#8, .setId5), (0x19#8, .setCaps)] ++
  [(0x20#8, .getDest), (0x21#8, .getSrc), (0x22#8, .getAddr), (0x23#8, .getCount), (0x24#8, .getData),
   (0x25#8, .getDatacount), (0x26#8, .getAddrcount), (0x27#8, .getId3), (0x28#8, .getCaplen)] ++
  [(0x29#8, .getLen), (0x2A#8, .getCmd), (0x2B#8, .getChecksum), (0x2C#8, .getKey), (0x2D#8, .getHeader)]

/-- The row of an OPC (30_encoding R91). -/
def instrOfOpc (opc : Byte) : Option Instr := (opcodeRows.find? fun row => row.1 == opc).map (·.2)

/-- OPC, bits [7:0] of an operation word (30_encoding R90). -/
def opcField (w : Word) : Byte := w.extractLsb' 0 8

/-- VAR, bits [11:8] of an operation word (30_encoding R90). -/
def varField (w : Word) : BitVec 4 := w.extractLsb' 8 4

/-- The reserved bits [31:12] of an operation word (30_encoding R90). -/
def reservedField (w : Word) : BitVec 20 := w.extractLsb' 12 20

/-- Decoding an operation word, the tests in the order of 30_encoding R92. -/
def decodeOp (w : Word) : Decoded :=
  if reservedField w ≠ 0#20 then .rejected .reservedBits
  else if opcField w = opcNew then
    if 1 ≤ (varField w).toNat ∧ (varField w).toNat ≤ 8 then .instr (.new (varField w))
    else .rejected .badVariant
  else match instrOfOpc (opcField w) with
    | none => .rejected .unassignedOpc
    | some i => if varField w = 0#4 then .instr i else .rejected .strayVariant

/-- Decoding a command byte: the wire variant it selects (30_encoding R106, R107). -/
def decodeCommand (t : CmdTable) (b : Byte) : Decoded :=
  match t.variantOf b with
  | none => .rejected .unrecognizedCommand
  | some v => .instr v.instr

/-- The two kinds of encoded object: a 32-bit operation word and the command byte of a wire packet. -/
inductive Encoding where
  | opWord (w : Word)
  | command (b : Byte)
deriving DecidableEq, Repr

/-- The decoder over both kinds, command bytes under the table `t`. -/
def decode (t : CmdTable) : Encoding → Decoded
  | .opWord w => decodeOp w
  | .command b => decodeCommand t b

/-- The instruction of a row of spec/opcode_table.json: 32 bits are an operation word, 8 bits a command byte of
the default table, and the block has no encoding of another size. -/
def decodeTableWord (nbits w : Nat) : Option Instr :=
  match nbits with
  | 32 => (decode defaultCmdTable (.opWord (BitVec.ofNat 32 w))).toOption
  | 8 => (decode defaultCmdTable (.command (BitVec.ofNat 8 w))).toOption
  | _ => none

/-! ### The encoder -/

/-- An operation word from its OPC and VAR; the reserved bits are 0 (30_encoding R90). -/
def opWordOf (opc : Byte) (var : BitVec 4) : Word :=
  BitVec.ofNat 32 (var.toNat * 256 + opc.toNat)

/-- The encoding of an instruction, from the table of 30_encoding R91 and the CMD_TABLE `t` (R105). -/
def encode (t : CmdTable) : Instr → Encoding
  | .new var => .opWord (opWordOf 0x01#8 var)
  | .decode => .opWord (opWordOf 0x02#8 0#4)
  | .finish => .opWord (opWordOf 0x03#8 0#4)
  | .check => .opWord (opWordOf 0x04#8 0#4)
  | .csum => .opWord (opWordOf 0x05#8 0#4)
  | .release => .opWord (opWordOf 0x06#8 0#4)
  | .setDest => .opWord (opWordOf 0x10#8 0#4)
  | .setSrc => .opWord (opWordOf 0x11#8 0#4)
  | .setAddr => .opWord (opWordOf 0x12#8 0#4)
  | .setCount => .opWord (opWordOf 0x13#8 0#4)
  | .setData => .opWord (opWordOf 0x14#8 0#4)
  | .setDatas => .opWord (opWordOf 0x15#8 0#4)
  | .setAddrs => .opWord (opWordOf 0x16#8 0#4)
  | .setId3 => .opWord (opWordOf 0x17#8 0#4)
  | .setId5 => .opWord (opWordOf 0x18#8 0#4)
  | .setCaps => .opWord (opWordOf 0x19#8 0#4)
  | .getDest => .opWord (opWordOf 0x20#8 0#4)
  | .getSrc => .opWord (opWordOf 0x21#8 0#4)
  | .getAddr => .opWord (opWordOf 0x22#8 0#4)
  | .getCount => .opWord (opWordOf 0x23#8 0#4)
  | .getData => .opWord (opWordOf 0x24#8 0#4)
  | .getDatacount => .opWord (opWordOf 0x25#8 0#4)
  | .getAddrcount => .opWord (opWordOf 0x26#8 0#4)
  | .getId3 => .opWord (opWordOf 0x27#8 0#4)
  | .getCaplen => .opWord (opWordOf 0x28#8 0#4)
  | .getLen => .opWord (opWordOf 0x29#8 0#4)
  | .getCmd => .opWord (opWordOf 0x2A#8 0#4)
  | .getChecksum => .opWord (opWordOf 0x2B#8 0#4)
  | .getKey => .opWord (opWordOf 0x2C#8 0#4)
  | .getHeader => .opWord (opWordOf 0x2D#8 0#4)
  | .initrq => .command (t.byte .initrq)
  | .initrs => .command (t.byte .initrs)
  | .rbrq => .command (t.byte .rbrq)
  | .rbrs => .command (t.byte .rbrs)
  | .rarq => .command (t.byte .rarq)
  | .rars => .command (t.byte .rars)
  | .warq => .command (t.byte .warq)
  | .wars => .command (t.byte .wars)

end Sys2Proof
end

