-- ==== Sys2Proof/Machine/State.lean ====
section
/-! DEFINITION. The state of the block (10_state R20), with the model's own fields for what the spec leaves open and
for the agents around the block, the stops of a step, and the state after reset (10_state R41). -/

namespace Sys2Proof.Machine

/-- The bytes of a buffer that have been written since reset, by offset, addresses strictly rising. An offset that is
not listed holds the unspecified byte of reset (70_reset R320; log 17). -/
abbrev Memory := List Host.Cell

/-- The canonical form below a capacity: offsets strictly rising, and none at or above it. No entry can equal what
an unlisted offset reads as, since that is no byte of its own but the unspecified one (log 17). -/
abbrev Memory.wf (cap : Nat) (m : Memory) : Prop :=
  m.Pairwise (fun x y => x.1 < y.1) ∧ ∀ x ∈ m, x.1 < cap

/-- The outcome codes of STATUS.CODE (60_exceptions R280). Codes 9 to 15 are never produced, and are no value of this
type (log 10). -/
inductive Code where
  | ok
  | bufferTooShort
  | argumentInvalid
  | valueOutOfRange
  | packetIncomplete
  | unrecognizedCommand
  | noPacket
  | fieldNotApplicable
  | illegalOp
deriving DecidableEq, Repr

/-- PENDING: the operation in flight and the operand registers latched when it was accepted (10_state R23, R40). The
buffer bytes need no copy: while BUSY no agent can write them (70_reset R331; log 7). -/
structure Pending where
  op : Instr
  arg0 : Word
  arg1 : Word
  buflen : Nat
  raMax : Nat
deriving DecidableEq, Repr

/-- What the Host or the platform does next (00_scope R9, R12; log 1). Addresses are offsets from HOST_BASE
(20_memory R71; log 6); `bytes` is the width of the access. -/
inductive HostAction where
  /-- `MemRead(addr, bytes)` -/
  | read (addr : BitVec 14) (bytes : Nat)
  /-- `MemWrite(addr, bytes, data)` -/
  | write (addr : BitVec 14) (bytes : Nat) (data : Word)
  /-- WAIT: read STATUS until BUSY reads 0 (30_encoding R96; log 19) -/
  | wait
  /-- The platform's reset input (70_reset R321; log 15) -/
  | reset
deriving DecidableEq, Repr

/-- The state of the machine. -/
structure State where
  /-- PKT, the packet buffer of 260 bytes (10_state R35) -/
  pkt : Memory
  /-- STG, the staging buffer of 256 bytes (10_state R36) -/
  stg : Memory
  /-- TOTLEN, 0 or 6..260 (10_state R29) -/
  totlen : Nat
  /-- VARIANT; none is code 0, no packet loaded (10_state R30) -/
  variant : Option Variant
  /-- FLAGS: bit 0 SRC, 1 DST, 2 D1, 3 D2, 4 D3, 5 CS (10_state R28) -/
  flags : BitVec 6
  /-- BUFLEN, 0..260 (10_state R33) -/
  buflen : Nat
  /-- CONFIG.RA_MAX, 1..84 (10_state R31) -/
  raMax : Nat
  /-- ARG0 (10_state R25) -/
  arg0 : Word
  /-- ARG1 (10_state R26) -/
  arg1 : Word
  /-- RES0 (10_state R27) -/
  res0 : Word
  /-- ACC, the checksum accumulator (10_state R34) -/
  acc : Byte
  /-- STATUS.BUSY (10_state R24) -/
  busy : Bool
  /-- STATUS.OVR (10_state R24) -/
  ovr : Bool
  /-- STATUS.RESULT (10_state R24) -/
  result : Bool
  /-- STATUS.CODE (10_state R24) -/
  code : Code
  /-- PENDING (10_state R40) -/
  pending : Option Pending
  /-- MODEL's own: CMD_TABLE, the command-byte table the block is built with, an open parameter of the step (00_scope R8,
  30_encoding R105). No step writes it (log 2) -/
  cmdTable : CmdTable
  /-- MODEL's own: how many more steps BUSY stays 1 for the operation in flight (70_reset R333; log 4) -/
  latency : Nat
  /-- MODEL's own: how many free values have been drawn (log 5) -/
  draws : Nat
  /-- MODEL's own: how many resets there have been, so that each draws its own buffer contents (log 3) -/
  epoch : Nat
  /-- MODEL's own: what the Host and the platform have yet to do, first action first (log 1) -/
  host : List HostAction
  /-- MODEL's own: the word the Host's last read returned (log 14) -/
  rdata : Word
deriving DecidableEq, Repr

/-- Why a step stops. -/
inductive Fault where
  /-- A bus error: the Host made an access that is not 32 bits wide, not word-aligned or not mapped. Raised by
  `hostStep` before anything is done; the spec has the model report it so (20_memory R63, 60_exceptions R290). Safe:
  the block is unchanged by such an access and only the run ends (log 9). -/
  | busError
deriving DecidableEq, Repr

/-- Why an instruction has no meaning. -/
inductive Refusal where
  /-- The instruction of this mnemonic is not modelled. Raised by nothing in this model: every arm of `exec` has its
  meaning. Safe. -/
  | notModelled (mnemonic : String)
deriving DecidableEq, Repr

/-- The machine right after reset (10_state R41, 70_reset R320). No byte of PKT and STG is listed, so each holds its
unspecified value. The last six fields are the MODEL's own. CMD_TABLE is here the spec's default (30_encoding R105),
four bytes of it PRESUMED (log 2); the values of the other five are DESIGN CHOICES (log 1, 3, 4, 5, 14). -/
def State.reset : State where
  pkt := []
  stg := []
  totlen := 0
  variant := none
  flags := 0x00#6
  buflen := 0
  raMax := Config.raMaxDefault
  arg0 := 0#32
  arg1 := 0#32
  res0 := 0#32
  acc := 0x00#8
  busy := false
  ovr := false
  result := false
  code := .ok
  pending := none
  cmdTable := defaultCmdTable
  latency := 0
  draws := 0
  epoch := 0
  host := []
  rdata := 0#32

end Sys2Proof.Machine
end

