-- ==== Sys2Proof/Machine/Ops.lean ====
section
/-! DEFINITION. The operations every meaning is built from: a buffer's bytes, the two buffers, the checksum
accumulator (40_checksum R140, R141), and how an operation ends (00_scope R13). -/

namespace Sys2Proof.Machine

/-! ### A buffer -/

/-- The byte written at an offset since reset, if one was. -/
def readCell : Memory → Nat → Option Byte
  | [], _ => none
  | (k, v) :: m, a => if a = k then some v else readCell m a

/-- Write a byte at an offset, keeping the canonical form. -/
def writeCell : Memory → Nat → Byte → Memory
  | [], a, b => [(a, b)]
  | (k, v) :: m, a, b =>
    if a < k then (a, b) :: (k, v) :: m
    else if a = k then (a, b) :: m
    else (k, v) :: writeCell m a b

/-- Write a byte of a buffer of `cap` bytes. There is no byte at `cap` or above: such a write, which no reachable state
makes, does nothing (log 11). -/
def writeBelow (cap i : Nat) (b : Byte) (m : Memory) : Memory := if i < cap then writeCell m i b else m

/-- Write bytes, in order, at ascending offsets from `off`. -/
def writeBytes (cap : Nat) : Nat → List Byte → Memory → Memory
  | _, [], m => m
  | off, b :: bs, m => writeBelow cap off b (writeBytes cap (off + 1) bs m)

/-- `writeBytes` to PKT. Irreducible, so that the elaborator never runs a fill of 260 bytes to compare two states; `rw`
and the kernel unfold it. -/
@[irreducible] def writeRun (off : Nat) (bs : List Byte) (m : Memory) : Memory := writeBytes Config.maxTotal off bs m

/-- PKT[i] (00_scope R12): the byte written since reset, or the unspecified one (70_reset R320). -/
def pktAt (s : State) (i : Nat) : Byte := (readCell s.pkt i).getD (Config.pktReset s.epoch i)

/-- STG[i] (00_scope R12), likewise. -/
def stgAt (s : State) (i : Nat) : Byte := (readCell s.stg i).getD (Config.stgReset s.epoch i)

/-- PKT[i] <- b. -/
def setPkt (i : Nat) (b : Byte) (s : State) : State := { s with pkt := writeBelow Config.maxTotal i b s.pkt }

/-- STG[i] <- b. -/
def setStg (i : Nat) (b : Byte) (s : State) : State := { s with stg := writeBelow Config.stgCap i b s.stg }

/-- The bytes, in order, into PKT at ascending offsets from `off`. -/
def storePkt (off : Nat) (bs : List Byte) (s : State) : State :=
  { s with pkt := writeRun off bs s.pkt }

/-- PKT[off .. off + k) <- 0x00. -/
def zeroPkt (off k : Nat) (s : State) : State := storePkt off (List.replicate k 0x00#8) s

/-- STG[0 .. k), in order. -/
def stgBytes (s : State) (k : Nat) : List Byte := (List.range k).map (stgAt s)

/-! ### The checksum accumulator -/

/-- The exact sum PKT[0] + ... + PKT[k - 1]. -/
def sumPkt (s : State) : Nat → Nat
  | 0 => 0
  | k + 1 => sumPkt s k + (pktAt s k).toNat

/-- csum(n): the low byte of the exact sum of the first n - 1 packet bytes (40_checksum R140). -/
def csum (s : State) (n : Nat) : Byte := BitVec.ofNat 8 (sumPkt s (n - 1))

/-- ACC8 after the loop of 40_checksum R141 has added its first k bytes, each carry out of bit 7 discarded. -/
def accLoop (s : State) : Nat → Byte
  | 0 => 0x00#8
  | k + 1 => accLoop s k + pktAt s k

/-- accumulate(n): run the loop and leave its result in ACC (40_checksum R141). -/
def accumulate (n : Nat) (s : State) : State := { s with acc := accLoop s (n - 1) }

/-! ### How an operation ends -/

/-- complete(code) (00_scope R13): write STATUS.CODE, clear STATUS.BUSY; nothing is in flight any more
(10_state R20, R40). -/
def complete (code : Code) (s : State) : State :=
  { s with code := code, busy := false, pending := none }

/-- raise <Kind> (00_scope R13): the block's only form of exception (60_exceptions R294). Nothing is saved but
STATUS.CODE, no mode changes and control goes nowhere; there is no return from it (60_exceptions R295), the next
operation's outcome replaces the code. -/
def raise (kind : Code) (s : State) : State := complete kind s

/-- The "no packet" state (10_state R37). PKT is kept (41_framer_lifecycle R163, R180). -/
def unload (s : State) : State := { s with variant := none, totlen := 0, flags := 0x00#6 }

end Sys2Proof.Machine
end

