-- ==== Sys2Proof/Machine/Operands.lean ====
section
/-! DEFINITION. What an operation reads: the latched operand registers (10_state R23, R40; 30_encoding R94), the
byte order of wire integers (20_memory R68), the field map (30_encoding R110) and the size rules
(41_framer_lifecycle R161, R175). -/

namespace Sys2Proof.Machine

/-! ### Operand registers -/

/-- ARG0 as the operation reads it: the value latched at acceptance (10_state R40). -/
def operandArg0 (s : State) : Word :=
  match s.pending with
  | some p => p.arg0
  | none => s.arg0

/-- ARG1 as the operation reads it. -/
def operandArg1 (s : State) : Word :=
  match s.pending with
  | some p => p.arg1
  | none => s.arg1

/-- BUFLEN as DECODE reads it. -/
def operandBuflen (s : State) : Nat :=
  match s.pending with
  | some p => p.buflen
  | none => s.buflen

/-- CONFIG.RA_MAX as SET ADDRS reads it. -/
def operandRaMax (s : State) : Nat :=
  match s.pending with
  | some p => p.raMax
  | none => s.raMax

/-! ### Wire integers -/

/-- be24(b0, b1, b2), the first byte most significant (00_scope R11), widened to a word. -/
def be24 (b0 b1 b2 : Byte) : Word := BitVec.ofNat 32 (b0.toNat * 65536 + b1.toNat * 256 + b2.toNat)

/-- be24_bytes: bits [23:16], [15:8], [7:0], in that order (30_encoding R120). -/
def be24Bytes (a : Word) : List Byte := [a.extractLsb' 16 8, a.extractLsb' 8 8, a.extractLsb' 0 8]

/-! ### The field map -/

/-- The completion flags (10_state R28). -/
inductive Flag where
  | src | dst | d1 | d2 | d3 | cs
deriving DecidableEq, Repr

/-- The fields a setter or a getter of 30_encoding R110 names, with the two identifiers of R108. -/
inductive Field where
  | dest | src | addr | count | data | datas | addrs | id3 | id5 | caps
deriving DecidableEq, Repr

/-- Where a field lies: its offset, the width that the size test of 42_field_setters R200 (test 5) and
43_field_getters R240 (test 3) puts beside TOTLEN, and the completion flag its setter sets. The width is none where
the rule of the field makes no such test: the identifiers, which every packet has room for (42_field_setters R203,
R204; log 20), and the fields whose setter sets the size (R208, R209, R212). -/
structure Slot where
  off : Nat
  width : Option Nat
  flag : Flag
deriving DecidableEq, Repr

/-- field(v, f) (30_encoding R110), with DEST and SRC, which every variant has (R108). -/
def fieldSlot (v : Variant) (f : Field) : Option Slot :=
  match f, v with
  | .dest, _ => some ⟨1, none, .dst⟩
  | .src, _ => some ⟨2, none, .src⟩
  | .id3, .initrs => some ⟨5, some 3, .d1⟩
  | .id5, .initrs => some ⟨8, some 5, .d2⟩
  | .caps, .initrs => some ⟨13, none, .d3⟩
  | .addr, .rbrq => some ⟨6, some 3, .d1⟩
  | .count, .rbrq => some ⟨9, some 1, .d2⟩
  | .datas, .rbrs => some ⟨5, none, .d1⟩
  | .addrs, .rarq => some ⟨6, none, .d1⟩
  | .datas, .rars => some ⟨5, none, .d1⟩
  | .addr, .warq => some ⟨5, some 3, .d1⟩
  | .data, .warq => some ⟨8, some 1, .d2⟩
  | .data, .wars => some ⟨5, some 1, .d1⟩
  | _, _ => none

/-- Where a variant has its padding byte (30_encoding R109): no setter and no getter names it. -/
def padOffset : Variant → Option Nat
  | .rbrq => some 5
  | .rarq => some 5
  | .initrq | .initrs | .rbrs | .rars | .warq | .wars => none

/-- off + w > TOTLEN - 1: the field reaches the checksum byte of a short packet (42_field_setters R200). -/
def Slot.tooLong (slot : Slot) (totlen : Nat) : Bool :=
  match slot.width with
  | none => false
  | some w => decide (slot.off + w > totlen - 1)

/-! ### Sizes -/

/-- INIT_TOTLEN(v) (41_framer_lifecycle R161). -/
def initTotlen : Variant → Nat
  | .initrq => 6
  | .initrs => 14
  | .rbrq => 11
  | .rbrs => 6
  | .rarq => 7
  | .rars => 6
  | .warq => 10
  | .wars => 7

/-- sizeok(v, n) (41_framer_lifecycle R175; RARS by 90_conflicts C2). -/
def sizeOk (v : Variant) (n : Nat) : Bool :=
  match v with
  | .initrq => n == 6
  | .initrs => decide (14 ≤ n)
  | .rbrq => n == 11
  | .rbrs => decide (7 ≤ n)
  | .rarq => decide (10 ≤ n) && (n - 7) % 3 == 0
  | .rars => decide (7 ≤ n)
  | .warq => n == 10
  | .wars => n == 7

end Sys2Proof.Machine
end

