-- ==== Sys2Proof/Machine/Flags.lean ====
section
/-! DEFINITION. The flag computations: the completion tracker FLAGS (10_state R28; 41_framer_lifecycle R161, R170),
the STATUS word (10_state R24), the outcome codes' numbers (60_exceptions R280) and CHECK's detail bits
(41_framer_lifecycle R176). -/

namespace Sys2Proof.Machine

/-! ### FLAGS -/

/-- The bit of a completion flag (10_state R28). -/
def Flag.mask : Flag → BitVec 6
  | .src => 0x01#6
  | .dst => 0x02#6
  | .d1 => 0x04#6
  | .d2 => 0x08#6
  | .d3 => 0x10#6
  | .cs => 0x20#6

/-- AllButChecksum (10_state R28). -/
def allButChecksum : BitVec 6 := 0x1F#6

/-- AllOk (10_state R28). -/
def allOk : BitVec 6 := 0x3F#6

/-- FLAGS.X <- 1. -/
def setFlag (x : Flag) (flags : BitVec 6) : BitVec 6 := flags ||| x.mask

/-- FLAGS.X <- 0. -/
def clearFlag (x : Flag) (flags : BitVec 6) : BitVec 6 := flags &&& ~~~x.mask

/-- PRESET(v): 1 for each data flag that does not apply to v, and D3 for INITRS (41_framer_lifecycle R161). -/
def preset : Variant → BitVec 6
  | .initrq => 0x1C#6
  | .initrs => 0x10#6
  | .rbrq => 0x10#6
  | .rbrs => 0x18#6
  | .rarq => 0x18#6
  | .rars => 0x18#6
  | .warq => 0x10#6
  | .wars => 0x18#6

/-- The missing-field mask, 0x1F AND NOT FLAGS (41_framer_lifecycle R170). -/
def missingMask (flags : BitVec 6) : Word := (allButChecksum &&& ~~~flags).setWidth 32

/-! ### STATUS -/

/-- The number of an outcome code (60_exceptions R280). -/
def Code.number : Code → Nat
  | .ok => 0
  | .bufferTooShort => 1
  | .argumentInvalid => 2
  | .valueOutOfRange => 3
  | .packetIncomplete => 4
  | .unrecognizedCommand => 5
  | .noPacket => 6
  | .fieldNotApplicable => 7
  | .illegalOp => 8

/-- Whether an outcome is a failing one: all but OK and UnrecognizedCommand (60_exceptions R280, R289). -/
def Code.failing : Code → Bool
  | .ok | .unrecognizedCommand => false
  | .bufferTooShort | .argumentInvalid | .valueOutOfRange | .packetIncomplete => true
  | .noPacket | .fieldNotApplicable | .illegalOp => true

/-- A bit of a word. -/
def bitAt (k : Nat) (b : Bool) : Word := if b then 1#32 <<< k else 0#32

/-- The STATUS word: BUSY [0], OVR [1], RESULT [2], VALID [3], CODE [11:8]; the other bits read 0 (10_state R24). -/
def statusWord (s : State) : Word :=
  bitAt 0 s.busy ||| bitAt 1 s.ovr ||| bitAt 2 s.result ||| bitAt 3 s.variant.isSome |||
    (BitVec.ofNat 32 s.code.number <<< 8)

/-! ### CHECK -/

/-- The six tests of CHECK (41_framer_lifecycle R174, R175). -/
structure Verdict where
  hdr : Bool
  len : Bool
  adr : Bool
  sum : Bool
  cmd : Bool
  siz : Bool
deriving DecidableEq, Repr

/-- ALL, the conjunction of the six tests (41_framer_lifecycle R176). -/
def Verdict.all (d : Verdict) : Bool := d.hdr && d.len && d.adr && d.sum && d.cmd && d.siz

/-- ALL | HDR<<1 | LEN<<2 | ADR<<3 | SUM<<4 | CMD<<5 | SIZ<<6 (41_framer_lifecycle R176). -/
def Verdict.word (d : Verdict) : Word :=
  bitAt 0 d.all ||| bitAt 1 d.hdr ||| bitAt 2 d.len ||| bitAt 3 d.adr ||| bitAt 4 d.sum ||| bitAt 5 d.cmd |||
    bitAt 6 d.siz

end Sys2Proof.Machine
end

