-- ==== Sys2Proof/Machine/Bus.lean ====
section
/-! DEFINITION. The host bus: the address map (20_memory R71), reads and writes (10_state R22 to R36), the acceptance of
an operation (10_state R23), the BUSY handshake (70_reset R330 to R333) and the platform's reset (70_reset R320). -/

namespace Sys2Proof.Machine

/-! ### The address map -/

/-- The registers of the map, in address order (10_state R22). -/
inductive HostReg where
  | cmd | status | arg0 | arg1 | res0 | flags | totlen | variant | buflen | config | acc | id
deriving DecidableEq, Repr

/-- What lies at a mapped address: a register or a byte of a window. -/
inductive Location where
  | reg (r : HostReg)
  | pkt (i : Nat)
  | stg (i : Nat)
deriving DecidableEq, Repr

/-- The registers at 0x000, 0x004, ... 0x02C (10_state R22). -/
def registerMap : List HostReg :=
  [.cmd, .status, .arg0, .arg1, .res0, .flags, .totlen, .variant, .buflen, .config, .acc, .id]

/-- The location an access reaches, or none where it is a bus error: not 32 bits wide, not word-aligned, or unmapped
(20_memory R63, R71). -/
def locate (addr : BitVec 14) (bytes : Nat) : Option Location :=
  let a := addr.toNat
  if bytes ≠ 4 then none
  else if a % 4 ≠ 0 then none
  else if a < 0x30 then (registerMap[a / 4]?).map Location.reg
  else if 0x1000 ≤ a ∧ a < 0x1410 then some (.pkt ((a - 0x1000) / 4))
  else if 0x2000 ≤ a ∧ a < 0x2400 then some (.stg ((a - 0x2000) / 4))
  else none

/-- Where the platform sees an address of the block: HOST_BASE added (20_memory R71; log 6). -/
def platformAddress (addr : BitVec 14) : Nat := Config.hostBase + addr.toNat

/-! ### Reads -/

/-- VARIANT as its register shows it: the code, 0 for no packet (10_state R30). -/
def variantCode (s : State) : Nat :=
  match s.variant with
  | none => 0
  | some v => v.code

/-- The word a register shows (10_state R22 to R34). -/
def readReg (s : State) : HostReg → Word
  | .cmd => 0#32
  | .status => statusWord s
  | .arg0 => s.arg0
  | .arg1 => s.arg1
  | .res0 => s.res0
  | .flags => s.flags.setWidth 32
  | .totlen => BitVec.ofNat 32 s.totlen
  | .variant => BitVec.ofNat 32 (variantCode s)
  | .buflen => BitVec.ofNat 32 s.buflen
  | .config => BitVec.ofNat 32 s.raMax
  | .acc => s.acc.setWidth 32
  | .id => Config.idValue

/-- The word a location shows; a window shows one byte (20_memory R64, R65). -/
def readLoc (s : State) : Location → Word
  | .reg r => readReg s r
  | .pkt i => (pktAt s i).setWidth 32
  | .stg i => (stgAt s i).setWidth 32

/-- A host read: STATUS always shows its value (10_state R24), any other location shows it while BUSY = 0 and a fresh
free value while BUSY = 1, CMD and ID among them (70_reset R332; log 5, 18). Only what the Host holds changes. -/
def hostRead (addr : BitVec 14) (loc : Location) (s : State) : State :=
  if s.busy = true ∧ loc ≠ .reg .status then
    { s with rdata := Config.busyRead addr s.draws, draws := s.draws + 1 }
  else { s with rdata := readLoc s loc }

/-! ### Writes -/

/-- Acceptance of the operation `i` that the word `w` spells: its operand registers are latched, OVR is cleared and
BUSY set, and the block will take an open time over it (10_state R23, R40; 70_reset R333). -/
def accept (i : Instr) (w : Word) (s : State) : State :=
  { s with
    ovr := false, busy := true,
    pending := some { op := i, arg0 := s.arg0, arg1 := s.arg1, buflen := s.buflen, raMax := s.raMax },
    latency := Config.opLatency w s.totlen s.arg0 s.draws, draws := s.draws + 1 }

/-- A word that spells no operation completes at once with IllegalOp (30_encoding R92, 60_exceptions R282). It is
accepted, so OVR is cleared (10_state R23; DEDUCED, log 8). -/
def rejectOp (s : State) : State := raise .illegalOp { s with ovr := false }

/-- A write to CMD while BUSY = 0 (10_state R23). -/
def writeCmd (w : Word) (s : State) : State :=
  match decodeOp w with
  | .instr i => accept i w s
  | .rejected _ => rejectOp s

/-- RA_MAX after a write to CONFIG: bits [6:0] where they are 1 to 84 (10_state R31). -/
def writeConfig (w : Word) (s : State) : State :=
  let v := (w.extractLsb' 0 7).toNat
  if 1 ≤ v ∧ v ≤ Config.raMaxCeil then { s with raMax := v } else s

/-- BUFLEN after a write: the value where it is at most 260 (10_state R33). -/
def writeBuflen (w : Word) (s : State) : State :=
  if w.toNat ≤ Config.maxTotal then { s with buflen := w.toNat } else s

/-- A write to a register while BUSY = 0; a read-only register ignores it (10_state R22). -/
def writeReg (w : Word) (s : State) : HostReg → State
  | .cmd => writeCmd w s
  | .arg0 => { s with arg0 := w }
  | .arg1 => { s with arg1 := w }
  | .buflen => writeBuflen w s
  | .config => writeConfig w s
  | .status | .res0 | .flags | .totlen | .variant | .acc | .id => s

/-- A write while BUSY = 0; a window takes bits [7:0] and changes its one byte only (20_memory R64, R65). -/
def writeLoc (w : Word) (s : State) : Location → State
  | .reg r => writeReg w s r
  | .pkt i => setPkt i (w.extractLsb' 0 8) s
  | .stg i => setStg i (w.extractLsb' 0 8) s

/-- A host write: dropped while BUSY = 1, leaving only OVR set (70_reset R331). -/
def hostWrite (w : Word) (loc : Location) (s : State) : State :=
  if s.busy then { s with ovr := true } else writeLoc w s loc

/-! ### The agents' next action -/

/-- Reset: every piece of state to its reset value, PKT and STG to new unspecified contents, and an operation in flight
abandoned (70_reset R320). CMD_TABLE is a parameter and stays (log 2); what the Host has yet to do and the word it read
last are not the block's (log 15). -/
def platformReset (s : State) : State :=
  { State.reset with
    cmdTable := s.cmdTable, epoch := s.epoch + 1, draws := s.draws, host := s.host, rdata := s.rdata }

/-- One host-visible step of the operation in flight goes by (70_reset R333; log 4). -/
def elapse (s : State) : State := { s with latency := s.latency - 1 }

/-- One step goes by if an operation is in flight before the action, as `before` says. -/
def elapseIf (before : Bool) (s : State) : State := if before then elapse s else s

/-- The instruction the block runs in this step: the operation in flight whose time is over (10_state R40). -/
def completing (s : State) : Option Instr :=
  match s.pending with
  | none => none
  | some p => if s.latency = 0 then some p.op else none

/-- A step in which no operation completes: the next action of the Host or the platform takes place. With none left the
block waits (70_reset R321). A bus error is not performed and stops the run (20_memory R63, 60_exceptions R290). -/
def hostStep (s : State) : Host.Outcome State Fault Refusal :=
  match s.host with
  | [] => .next (elapseIf s.busy s)
  | .reset :: rest => .next (platformReset { s with host := rest })
  | .wait :: rest =>
    .next (elapseIf s.busy { s with rdata := statusWord s, host := if s.busy then .wait :: rest else rest })
  | .read addr bytes :: rest =>
    match locate addr bytes with
    | none => .fault .busError
    | some loc => .next (elapseIf s.busy (hostRead addr loc { s with host := rest }))
  | .write addr bytes w :: rest =>
    match locate addr bytes with
    | none => .fault .busError
    | some loc => .next (elapseIf s.busy (hostWrite w loc { s with host := rest }))

/-! ### Placing an instruction where the block runs it next -/

/-- The operation `i` accepted, and its time over: the next step runs it (log 16). -/
def placeOp (i : Instr) (w : Word) (s : State) : State := { accept i w s with latency := 0 }

/-- The Host's write of a word to CMD as the next action, the block idle. -/
def placeWrite (w : Word) (s : State) : State :=
  { s with busy := false, pending := none, host := .write 0x000#14 4 w :: s.host }

/-- A raw packet of minimal length with the command byte `b` in PKT, and DECODE accepted with its time over: the next step
dispatches `b` under the state's CMD_TABLE (log 16). -/
def placePacket (b : Byte) (s : State) : State :=
  placeOp .decode 0x00000002#32 { setPkt 4 b (setPkt 3 0x01#8 s) with buflen := 6 }

/-- A row of spec/opcode_table.json placed where the next step runs it: a command byte as a packet for DECODE, an
operation word as the operation accepted, and any other word as a write to CMD. -/
def placeTableWord (nbits w : Nat) (s : State) : State :=
  if nbits = 8 then placePacket (BitVec.ofNat 8 w) s
  else
    match decodeTableWord nbits w with
    | some i => placeOp i (BitVec.ofNat 32 w) s
    | none => placeWrite (BitVec.ofNat 32 w) s

end Sys2Proof.Machine
end

