-- ==== Sys2Proof/Machine/Framer.lean ====
section
/-! DEFINITION. The packet framer's shared procedures: building a new packet (41_framer_lifecycle R160), the
constructor of the DECODE factory (R163), the stamps of FINISH (R169), the verdict of CHECK (R174 to R176), the
completion-tracker update (42_field_setters R201), and the common setter (42_field_setters R200) and getter
(43_field_getters R240) procedures. -/

namespace Sys2Proof.Machine

/-! ### Lifecycle -/

/-- NEW(v) with command-byte table `t` (41_framer_lifecycle R160; 30_encoding R105). -/
def newPacket (t : CmdTable) (v : Variant) (s : State) : State :=
  { setPkt 4 (t.byte v) (setPkt 0 Config.marker (zeroPkt 0 Config.maxTotal s)) with
    totlen := initTotlen v, flags := preset v, variant := some v }

/-- TOTLEN = PKT[3] + 5, from the length byte alone (30_encoding R103; 90_conflicts C1). -/
def wireLength (s : State) : Nat := (pktAt s 3).toNat + 5

/-- DECODE's failures: no packet produced, RES0 = 0 (41_framer_lifecycle R163). PKT is kept. -/
def decodeFail (kind : Code) (s : State) : State := raise kind { unload s with res0 := 0#32 }

/-- The constructor that the factory selects for `v`: it takes its total length from the length byte alone, fails with
BufferTooShort where that is below 6 or above BUFLEN, and otherwise takes the bytes of PKT as they are, with every
flag set (41_framer_lifecycle R163, R164, R166, R168). -/
def loadPacket (v : Variant) (s : State) : State :=
  if wireLength s < Config.minTotal then decodeFail .bufferTooShort s
  else if operandBuflen s < wireLength s then decodeFail .bufferTooShort s
  else complete .ok
    { s with variant := some v, totlen := wireLength s, flags := allOk, res0 := BitVec.ofNat 32 v.code }

/-- The two stamps of FINISH: the length byte first, so that the checksum covers it, then the checksum by the
accumulator (41_framer_lifecycle R169). -/
def stampLength (s : State) : State := setPkt 3 (BitVec.ofNat 8 (s.totlen - 5)) s

/-- The second stamp: run the accumulator over the packet and store ACC at TOTLEN - 1 (41_framer_lifecycle R169). -/
def stampChecksum (s : State) : State :=
  let run := accumulate s.totlen s
  setPkt (s.totlen - 1) run.acc run

/-- The six tests of CHECK on the packet loaded as `v`; `sum` is the accumulator's result (41_framer_lifecycle R174 to
R176). -/
def verdict (t : CmdTable) (v : Variant) (sum : Byte) (s : State) : Verdict where
  hdr := pktAt s 0 == Config.marker
  len := (pktAt s 3).toNat + 5 == s.totlen
  adr := pktAt s 1 != pktAt s 2
  sum := pktAt s (s.totlen - 1) == sum
  cmd := pktAt s 4 == t.byte v
  siz := sizeOk v s.totlen

/-! ### The completion tracker -/

/-- Whether the first `n` bytes of PKT differ between two states. -/
def pktDiffers (n : Nat) (s s' : State) : Bool := (List.range n).any fun i => pktAt s' i != pktAt s i

/-- commit(flag, n', writes) (42_field_setters R201): zero-fill what a growing packet gains (R202), set TOTLEN, write
the field's bytes from `off`, set the field's flag, and clear CS exactly when the length or a byte below it
changed. -/
def commit (flag : Flag) (newLen off : Nat) (bytes : List Byte) (s : State) : State :=
  let grown := zeroPkt s.totlen (newLen - s.totlen) s
  let written := storePkt off bytes { grown with totlen := newLen }
  let changed := newLen != s.totlen || pktDiffers newLen s written
  let flagged := setFlag flag s.flags
  { written with flags := if changed then clearFlag .cs flagged else flagged }

/-! ### Setters and getters -/

/-- The tests of SET f in the order of 42_field_setters R200, and then `body` with where the field lies. `empty` says
that the length operand of a byte string is 0 (test 3), `bad` that an operand is out of range (test 4). -/
def runSetter (f : Field) (empty bad : Bool) (s : State) (body : Slot → State) : State :=
  match s.variant with
  | none => raise .noPacket s
  | some v =>
    match fieldSlot v f with
    | none => raise .fieldNotApplicable s
    | some slot =>
      if empty then raise .argumentInvalid s
      else if bad then raise .valueOutOfRange s
      else if slot.tooLong s.totlen then raise .bufferTooShort s
      else complete .ok (body slot)

/-- A setter of fixed size: TOTLEN stays and the bytes go where the field lies (42_field_setters R203 to R207, R210,
R211). -/
def setFixed (f : Field) (empty bad : Bool) (bytes : List Byte) (s : State) : State :=
  runSetter f empty bad s fun slot => commit slot.flag s.totlen slot.off bytes s

/-- A setter that sets the size: the packet becomes `newLen` bytes long (42_field_setters R208, R209, R212). -/
def setSized (f : Field) (empty bad : Bool) (newLen : Nat) (bytes : List Byte) (s : State) : State :=
  runSetter f empty bad s fun slot => commit slot.flag newLen slot.off bytes s

/-- A getter of a byte or count every variant has: test 1 of 43_field_getters R240, then RES0. -/
def getAlways (value : Word) (s : State) : State :=
  match s.variant with
  | none => raise .noPacket s
  | some _ => complete .ok { s with res0 := value }

/-- A getter of a field of some variants: tests 1 to 3 of 43_field_getters R240, then RES0. A derived count is read
under the field it counts, which makes no size test. -/
def getField (f : Field) (s : State) (value : Slot → Word) : State :=
  match s.variant with
  | none => raise .noPacket s
  | some v =>
    match fieldSlot v f with
    | none => raise .fieldNotApplicable s
    | some slot =>
      if slot.tooLong s.totlen then raise .bufferTooShort s
      else complete .ok { s with res0 := value slot }

end Sys2Proof.Machine
end

