-- ==== Sys2Proof/Machine/Checksum.lean ====
section
/-! DEFINITION. The checksum family: CSUM (40_checksum R143). -/

namespace Sys2Proof.Machine

/-- CSUM: csum(ARG0) over PKT into ACC and RES0, with or without a loaded packet; ValueOutOfRange unless 1 to 260
(40_checksum R143). -/
def execCsum (s : State) : Host.Outcome State Fault Refusal :=
  let n := (operandArg0 s).toNat
  if n < 1 || n > Config.maxTotal then .next (raise .valueOutOfRange s)
  else
    let run := accumulate n s
    .next (complete .ok { run with res0 := run.acc.setWidth 32 })

end Sys2Proof.Machine
end

