-- ==== Sys2Proof/Machine/Getters.lean ====
section
/-! DEFINITION. The getter family: the fourteen GET operations (43_field_getters). Each says its field and its value;
the procedure is that of R240. -/

namespace Sys2Proof.Machine

/-- PKT[i], widened to RES0. -/
def pktWord (s : State) (i : Nat) : Word := (pktAt s i).setWidth 32

/-- The three bytes at `off`, big-endian (20_memory R68). -/
def pktBe24 (s : State) (off : Nat) : Word := be24 (pktAt s off) (pktAt s (off + 1)) (pktAt s (off + 2))

/-- GET DEST (43_field_getters R241). -/
def execGetDest (s : State) : Host.Outcome State Fault Refusal := .next (getAlways (pktWord s 1) s)

/-- GET SRC (43_field_getters R242). -/
def execGetSrc (s : State) : Host.Outcome State Fault Refusal := .next (getAlways (pktWord s 2) s)

/-- GET ADDR (43_field_getters R243). -/
def execGetAddr (s : State) : Host.Outcome State Fault Refusal :=
  .next (getField .addr s fun slot => pktBe24 s slot.off)

/-- GET COUNT, the stored byte plus one (43_field_getters R244). -/
def execGetCount (s : State) : Host.Outcome State Fault Refusal :=
  .next (getField .count s fun slot => pktWord s slot.off + 1#32)

/-- GET DATA (43_field_getters R245). -/
def execGetData (s : State) : Host.Outcome State Fault Refusal :=
  .next (getField .data s fun slot => pktWord s slot.off)

/-- GET DATACOUNT: TOTLEN - 6, and 0 where that is not 1 to 254 (43_field_getters R246). -/
def execGetDatacount (s : State) : Host.Outcome State Fault Refusal :=
  let d := s.totlen - 6
  .next (getField .datas s fun _ => if 1 ≤ d ∧ d ≤ Config.dataMax then BitVec.ofNat 32 d else 0#32)

/-- GET ADDRCOUNT: (TOTLEN - 7) / 3, and 0 where TOTLEN is no size of a read-addresses request (43_field_getters
R247). -/
def execGetAddrcount (s : State) : Host.Outcome State Fault Refusal :=
  .next (getField .addrs s fun _ =>
    if 10 ≤ s.totlen ∧ (s.totlen - 7) % 3 = 0 then BitVec.ofNat 32 ((s.totlen - 7) / 3) else 0#32)

/-- GET ID3, packed big-endian (43_field_getters R248). -/
def execGetId3 (s : State) : Host.Outcome State Fault Refusal :=
  .next (getField .id3 s fun slot => pktBe24 s slot.off)

/-- GET CAPLEN: TOTLEN - 14, and 0 below 14 (43_field_getters R249). -/
def execGetCaplen (s : State) : Host.Outcome State Fault Refusal :=
  .next (getField .caps s fun _ => if 14 ≤ s.totlen then BitVec.ofNat 32 (s.totlen - 14) else 0#32)

/-- GET LEN, the stored length byte (43_field_getters R250). -/
def execGetLen (s : State) : Host.Outcome State Fault Refusal := .next (getAlways (pktWord s 3) s)

/-- GET CMD, the stored command byte (43_field_getters R251). -/
def execGetCmd (s : State) : Host.Outcome State Fault Refusal := .next (getAlways (pktWord s 4) s)

/-- GET CHECKSUM, the stored checksum byte (43_field_getters R252). -/
def execGetChecksum (s : State) : Host.Outcome State Fault Refusal :=
  .next (getAlways (pktWord s (s.totlen - 1)) s)

/-- GET KEY: TOTLEN * 256 + the stored checksum byte (43_field_getters R253; 41_framer_lifecycle R181). -/
def execGetKey (s : State) : Host.Outcome State Fault Refusal :=
  .next (getAlways (BitVec.ofNat 32 (s.totlen * 256 + (pktAt s (s.totlen - 1)).toNat)) s)

/-- GET HEADER, the stored marker byte (43_field_getters R254). -/
def execGetHeader (s : State) : Host.Outcome State Fault Refusal := .next (getAlways (pktWord s 0) s)

end Sys2Proof.Machine
end

