-- ==== Sys2Proof/Machine/Lifecycle.lean ====
section
/-! DEFINITION. The lifecycle family: NEW, DECODE, FINISH, CHECK and RELEASE (41_framer_lifecycle). -/

namespace Sys2Proof.Machine

/-- NEW v under the block's CMD_TABLE (41_framer_lifecycle R160; 30_encoding R105). A variant code outside 1 to 8 is no NEW: its word is IllegalOp (30_encoding R92;
log 13). -/
def execNew (var : BitVec 4) (s : State) : Host.Outcome State Fault Refusal :=
  match variantOfCode var.toNat with
  | none => .next (raise .illegalOp s)
  | some v => .next (complete .ok (newPacket s.cmdTable v s))

/-- DECODE, its tests in the order of 41_framer_lifecycle R163 and R164: BUFLEN below 6, the command byte under the
block's CMD_TABLE (30_encoding R105 to R107), and then the selected constructor's own. -/
def execDecode (s : State) : Host.Outcome State Fault Refusal :=
  if operandBuflen s < Config.minTotal then .next (decodeFail .bufferTooShort s)
  else match s.cmdTable.variantOf (pktAt s 4) with
    | none => .next (decodeFail .unrecognizedCommand s)
    | some v => .next (loadPacket v s)

/-- FINISH (41_framer_lifecycle R169): a no-op on AllOk, the two stamps on AllButChecksum, PacketIncomplete with the
missing-field mask (R170) otherwise. -/
def execFinish (s : State) : Host.Outcome State Fault Refusal :=
  match s.variant with
  | none => .next (raise .noPacket s)
  | some _ =>
    if s.flags = allOk then .next (complete .ok { s with res0 := 0#32 })
    else if s.flags = allButChecksum then
      .next (complete .ok { stampChecksum (stampLength s) with flags := allOk, res0 := 0#32 })
    else .next (raise .packetIncomplete { s with res0 := missingMask s.flags })

/-- CHECK (41_framer_lifecycle R176): always OK, its verdict in RES0 and STATUS.RESULT. -/
def execCheck (s : State) : Host.Outcome State Fault Refusal :=
  match s.variant with
  | none => .next (complete .ok { s with res0 := 0#32, result := false })
  | some v =>
    let run := accumulate s.totlen s
    let d := verdict s.cmdTable v run.acc s
    .next (complete .ok { run with res0 := d.word, result := d.all })

/-- RELEASE (41_framer_lifecycle R180): the "no packet" state, the bytes of PKT kept. -/
def execRelease (s : State) : Host.Outcome State Fault Refusal :=
  .next (complete .ok (unload s))

end Sys2Proof.Machine
end

