-- ==== Sys2Proof/Machine/Setters.lean ====
section
/-! DEFINITION. The setter family: the ten SET operations (42_field_setters). Each says its field, its operand tests
and its bytes; the procedure is that of R200. -/

namespace Sys2Proof.Machine

/-- The low byte of ARG0. -/
def arg0Byte (s : State) : Byte := (operandArg0 s).extractLsb' 0 8

/-- ARG0 > 0xFF (42_field_setters R203, R204, R207). -/
def arg0AboveByte (s : State) : Bool := decide ((operandArg0 s).toNat > 0xFF)

/-- ARG1 as a length or a count (30_encoding R94). -/
def arg1Count (s : State) : Nat := (operandArg1 s).toNat

/-- SET DEST (42_field_setters R203). -/
def execSetDest (s : State) : Host.Outcome State Fault Refusal :=
  .next (setFixed .dest false (arg0AboveByte s) [arg0Byte s] s)

/-- SET SRC (42_field_setters R204). -/
def execSetSrc (s : State) : Host.Outcome State Fault Refusal :=
  .next (setFixed .src false (arg0AboveByte s) [arg0Byte s] s)

/-- SET ADDR, three bytes big-endian (42_field_setters R205). -/
def execSetAddr (s : State) : Host.Outcome State Fault Refusal :=
  .next (setFixed .addr false (decide ((operandArg0 s).toNat > 0xFFFFFF)) (be24Bytes (operandArg0 s)) s)

/-- SET COUNT, the logical count 1 to 256 stored less one (42_field_setters R206; 30_encoding R119). -/
def execSetCount (s : State) : Host.Outcome State Fault Refusal :=
  let k := (operandArg0 s).toNat
  .next (setFixed .count false (decide (k < 1) || decide (k > 256)) [BitVec.ofNat 8 (k - 1)] s)

/-- SET DATA (42_field_setters R207). -/
def execSetData (s : State) : Host.Outcome State Fault Refusal :=
  .next (setFixed .data false (arg0AboveByte s) [arg0Byte s] s)

/-- SET DATAS, ARG1 bytes from STG; the packet becomes 6 + N bytes long (42_field_setters R208). -/
def execSetDatas (s : State) : Host.Outcome State Fault Refusal :=
  let n := arg1Count s
  .next (setSized .datas (n == 0) (decide (n > Config.dataMax)) (6 + n) (stgBytes s n) s)

/-- SET ADDRS, ARG1 addresses of three bytes from STG. An empty list is ValueOutOfRange (42_field_setters R209;
90_conflicts C4). -/
def execSetAddrs (s : State) : Host.Outcome State Fault Refusal :=
  let c := arg1Count s
  .next (setSized .addrs false (c == 0 || decide (c > operandRaMax s)) (7 + 3 * c) (stgBytes s (3 * c)) s)

/-- SET ID3, exactly three bytes from STG (42_field_setters R210). -/
def execSetId3 (s : State) : Host.Outcome State Fault Refusal :=
  let n := arg1Count s
  .next (setFixed .id3 (n == 0) (n != 3) (stgBytes s 3) s)

/-- SET ID5, exactly five bytes from STG (42_field_setters R211). -/
def execSetId5 (s : State) : Host.Outcome State Fault Refusal :=
  let n := arg1Count s
  .next (setFixed .id5 (n == 0) (n != 5) (stgBytes s 5) s)

/-- SET CAPS, ARG1 capability bytes from STG; the packet becomes 14 + N bytes long (42_field_setters R212). -/
def execSetCaps (s : State) : Host.Outcome State Fault Refusal :=
  let n := arg1Count s
  .next (setSized .caps (n == 0) (decide (n > Config.capsMax)) (14 + n) (stgBytes s n) s)

end Sys2Proof.Machine
end

