-- ==== Sys2Proof/Machine/Wire.lean ====
section
/-! DEFINITION. The wire family: the eight packet variants (30_encoding R111 to R118). A raw packet in PKT is run by
DECODE, which selects the variant's constructor by the command byte (30_encoding R107; 41_framer_lifecycle R163,
R164); the meaning of a wire instruction is that constructor (DESIGN CHOICE, log 12). -/

namespace Sys2Proof.Machine

/-- The init request's constructor (30_encoding R111). -/
def execInitrq (s : State) : Host.Outcome State Fault Refusal := .next (loadPacket .initrq s)

/-- The init response's constructor (30_encoding R112). -/
def execInitrs (s : State) : Host.Outcome State Fault Refusal := .next (loadPacket .initrs s)

/-- The read-block request's constructor (30_encoding R113). -/
def execRbrq (s : State) : Host.Outcome State Fault Refusal := .next (loadPacket .rbrq s)

/-- The read-block response's constructor (30_encoding R114). -/
def execRbrs (s : State) : Host.Outcome State Fault Refusal := .next (loadPacket .rbrs s)

/-- The read-addresses request's constructor (30_encoding R115). -/
def execRarq (s : State) : Host.Outcome State Fault Refusal := .next (loadPacket .rarq s)

/-- The read-addresses response's constructor (30_encoding R116). -/
def execRars (s : State) : Host.Outcome State Fault Refusal := .next (loadPacket .rars s)

/-- The write-address request's constructor (30_encoding R117). -/
def execWarq (s : State) : Host.Outcome State Fault Refusal := .next (loadPacket .warq s)

/-- The write-address response's constructor (30_encoding R118). -/
def execWars (s : State) : Host.Outcome State Fault Refusal := .next (loadPacket .wars s)

end Sys2Proof.Machine
end

