-- ==== Sys2Proof/Machine/Dispatch.lean ====
section
/-! DEFINITION. Dispatch: one arm per constructor of Instr, each the one call of its meaning. -/

namespace Sys2Proof.Machine

def exec (i : Instr) (s : State) : Host.Outcome State Fault Refusal :=
  match i with
  | .new var => Sys2Proof.Machine.execNew var s
  | .decode => Sys2Proof.Machine.execDecode s
  | .finish => Sys2Proof.Machine.execFinish s
  | .check => Sys2Proof.Machine.execCheck s
  | .csum => Sys2Proof.Machine.execCsum s
  | .release => Sys2Proof.Machine.execRelease s
  | .setDest => Sys2Proof.Machine.execSetDest s
  | .setSrc => Sys2Proof.Machine.execSetSrc s
  | .setAddr => Sys2Proof.Machine.execSetAddr s
  | .setCount => Sys2Proof.Machine.execSetCount s
  | .setData => Sys2Proof.Machine.execSetData s
  | .setDatas => Sys2Proof.Machine.execSetDatas s
  | .setAddrs => Sys2Proof.Machine.execSetAddrs s
  | .setId3 => Sys2Proof.Machine.execSetId3 s
  | .setId5 => Sys2Proof.Machine.execSetId5 s
  | .setCaps => Sys2Proof.Machine.execSetCaps s
  | .getDest => Sys2Proof.Machine.execGetDest s
  | .getSrc => Sys2Proof.Machine.execGetSrc s
  | .getAddr => Sys2Proof.Machine.execGetAddr s
  | .getCount => Sys2Proof.Machine.execGetCount s
  | .getData => Sys2Proof.Machine.execGetData s
  | .getDatacount => Sys2Proof.Machine.execGetDatacount s
  | .getAddrcount => Sys2Proof.Machine.execGetAddrcount s
  | .getId3 => Sys2Proof.Machine.execGetId3 s
  | .getCaplen => Sys2Proof.Machine.execGetCaplen s
  | .getLen => Sys2Proof.Machine.execGetLen s
  | .getCmd => Sys2Proof.Machine.execGetCmd s
  | .getChecksum => Sys2Proof.Machine.execGetChecksum s
  | .getKey => Sys2Proof.Machine.execGetKey s
  | .getHeader => Sys2Proof.Machine.execGetHeader s
  | .initrq => Sys2Proof.Machine.execInitrq s
  | .initrs => Sys2Proof.Machine.execInitrs s
  | .rbrq => Sys2Proof.Machine.execRbrq s
  | .rbrs => Sys2Proof.Machine.execRbrs s
  | .rarq => Sys2Proof.Machine.execRarq s
  | .rars => Sys2Proof.Machine.execRars s
  | .warq => Sys2Proof.Machine.execWarq s
  | .wars => Sys2Proof.Machine.execWars s

end Sys2Proof.Machine
end

