-- ==== Sys2Proof/Machine/Step.lean ====
section
/-! DEFINITION. One step of the machine. The block has no program counter and fetches nothing (10_state R21): the
instruction a step runs is the operation in flight. -/

namespace Sys2Proof.Machine

/-- A step completes the operation in flight, as one indivisible change (20_memory R67), when its time is over; in any
other step the next action of the Host or the platform takes place. -/
def step (s : State) : Host.Outcome State Fault Refusal :=
  match completing s with
  | some i => exec i s
  | none => hostStep s

/-- A table row's instruction placed where the next step runs it (log 16). -/
def State.withFetchWord (s : State) (nbits w : Nat) : State := placeTableWord nbits w s

end Sys2Proof.Machine
end

