-- ==== Sys2Proof/Machine/Pseudo.lean ====
section
/-! DEFINITION. The assembler: the operations' names (30_encoding R95) and the pseudo-instructions' expansions to host
actions (30_encoding R96). The Host runs them; the block only sees the accesses. -/

namespace Sys2Proof.Machine

/-- The name of a variant (30_encoding R104). -/
def variantName : Variant → String
  | .initrq => "INITRQ"
  | .initrs => "INITRS"
  | .rbrq => "RBRQ"
  | .rbrs => "RBRS"
  | .rarq => "RARQ"
  | .rars => "RARS"
  | .warq => "WARQ"
  | .wars => "WARS"

/-- NEW's operand as the assembler writes it; a code that names no variant has no name. -/
def variantOperand (var : BitVec 4) : String :=
  match variantOfCode var.toNat with
  | none => "?"
  | some v => variantName v

/-- An operation as the assembler writes it (30_encoding R95); a wire variant by its name (R104). -/
def asmName : Instr → String
  | .new var => "NEW " ++ variantOperand var
  | .decode => "DECODE"
  | .finish => "FINISH"
  | .check => "CHECK"
  | .csum => "CSUM"
  | .release => "RELEASE"
  | .setDest => "SET DEST"
  | .setSrc => "SET SRC"
  | .setAddr => "SET ADDR"
  | .setCount => "SET COUNT"
  | .setData => "SET DATA"
  | .setDatas => "SET DATAS"
  | .setAddrs => "SET ADDRS"
  | .setId3 => "SET ID3"
  | .setId5 => "SET ID5"
  | .setCaps => "SET CAPS"
  | .getDest => "GET DEST"
  | .getSrc => "GET SRC"
  | .getAddr => "GET ADDR"
  | .getCount => "GET COUNT"
  | .getData => "GET DATA"
  | .getDatacount => "GET DATACOUNT"
  | .getAddrcount => "GET ADDRCOUNT"
  | .getId3 => "GET ID3"
  | .getCaplen => "GET CAPLEN"
  | .getLen => "GET LEN"
  | .getCmd => "GET CMD"
  | .getChecksum => "GET CHECKSUM"
  | .getKey => "GET KEY"
  | .getHeader => "GET HEADER"
  | .initrq => variantName .initrq
  | .initrs => variantName .initrs
  | .rbrq => variantName .rbrq
  | .rbrs => variantName .rbrs
  | .rarq => variantName .rarq
  | .rars => variantName .rars
  | .warq => variantName .warq
  | .wars => variantName .wars

/-- `WR <addr>, <value>` (30_encoding R95). -/
def wr (addr : Nat) (w : Word) : HostAction := .write (BitVec.ofNat 14 addr) 4 w

/-- `RD <addr>` (30_encoding R95). -/
def rd (addr : Nat) : HostAction := .read (BitVec.ofNat 14 addr) 4

/-- Bytes into consecutive words of a window from `addr`. -/
def wrBytes : Nat → List Byte → List HostAction
  | _, [] => []
  | addr, b :: bs => wr addr (b.setWidth 32) :: wrBytes (addr + 4) bs

/-- `ARG0 v` (30_encoding R96). -/
def asmArg0 (v : Word) : List HostAction := [wr 0x008 v]

/-- `ARG1 v` (30_encoding R96). -/
def asmArg1 (v : Word) : List HostAction := [wr 0x00C v]

/-- `STAGE b0, ..., bk` (30_encoding R96). -/
def asmStage (bs : List Byte) : List HostAction := wrBytes 0x2000 bs

/-- `LOADBUF b0, ..., bk` (30_encoding R96). -/
def asmLoadbuf (bs : List Byte) : List HostAction := wrBytes 0x1000 bs ++ [wr 0x020 (BitVec.ofNat 32 bs.length)]

/-- `OP <mnemonic>` of the operation with this word (30_encoding R96). -/
def asmOp (w : Word) : List HostAction := [wr 0x000 w, .wait]

/-- `SET <field>, v` of the setter with this word (30_encoding R96). -/
def asmSet (w v : Word) : List HostAction := asmArg0 v ++ asmOp w

/-- `SETB <field>, b0, ..., bk` of the setter with this word (30_encoding R96). -/
def asmSetb (w : Word) (bs : List Byte) : List HostAction :=
  asmStage bs ++ asmArg1 (BitVec.ofNat 32 bs.length) ++ asmOp w

/-- `SETA a0, ..., ak` (30_encoding R96). -/
def asmSeta (addrs : List Word) : List HostAction :=
  asmStage (addrs.flatMap be24Bytes) ++ asmArg1 (BitVec.ofNat 32 addrs.length) ++ asmOp 0x00000016#32

/-- `ENCODE`, for the TOTLEN `n` that its read of 0x018 returns (30_encoding R96; log 19). -/
def asmEncode (n : Nat) : List HostAction :=
  asmOp 0x00000003#32 ++ [rd 0x018] ++ (List.range n).map fun i => rd (0x1000 + 4 * i)

end Sys2Proof.Machine
end

