-- ==== Sys2Proof/Safety.lean ====
section
/-! DEFINITION. What the claims speak of: the invariants of the state (10_state R20, R31, R33, R37, R40), a host program
without bus errors (20_memory R63), the outcomes an operation can have (60_exceptions R280), and a packet built from
NEW (41_framer_lifecycle R177). -/

namespace Sys2Proof.Machine

/-- The packet invariant (10_state R37): the "no packet" state, or a loaded packet of 6 to 260 bytes with CS only on
AllOk and every preset flag 1. -/
def State.PacketInv (s : State) : Prop :=
  match s.variant with
  | none => s.totlen = 0 ∧ s.flags = 0x00#6
  | some v =>
    6 ≤ s.totlen ∧ s.totlen ≤ 260 ∧
      (s.flags &&& Flag.cs.mask ≠ 0#6 → s.flags = allOk) ∧ s.flags &&& preset v = preset v

/-- The registers hold legal values (10_state R31, R33). -/
def State.RangeInv (s : State) : Prop := s.buflen ≤ 260 ∧ 1 ≤ s.raMax ∧ s.raMax ≤ 84

/-- BUSY is 1 exactly while an operation is in flight, and the operands latched at its acceptance are still those of
the registers (10_state R23, R24, R40). -/
def State.HandshakeInv (s : State) : Prop :=
  match s.pending with
  | none => s.busy = false
  | some p =>
    s.busy = true ∧ p.op.WellFormed ∧
      p.arg0 = s.arg0 ∧ p.arg1 = s.arg1 ∧ p.buflen = s.buflen ∧ p.raMax = s.raMax

/-- The two buffers are in canonical form below their capacities. -/
def State.MemoryInv (s : State) : Prop := s.pkt.wf 260 ∧ s.stg.wf 256

/-- The invariant of the machine; its command-byte table is one that 30_encoding R105 admits. -/
def State.Inv (s : State) : Prop := s.PacketInv ∧ s.RangeInv ∧ s.HandshakeInv ∧ s.MemoryInv ∧ s.cmdTable.Legal

/-- An action that is no bus error (20_memory R63). -/
def HostAction.mapped : HostAction → Bool
  | .read addr bytes => (locate addr bytes).isSome
  | .write addr bytes _ => (locate addr bytes).isSome
  | .wait => true
  | .reset => true

/-- Whether the platform's reset is this action. -/
def HostAction.isReset : HostAction → Bool
  | .reset => true
  | .read _ _ | .write _ _ _ | .wait => false

/-- The outcomes a well-formed operation can have, the "raised by" column of 60_exceptions R280 read by operation; of a
wire variant those of its constructor, which DECODE's are (log 12). -/
def possibleCodes : Instr → List Code
  | .new _ | .check | .release => [.ok]
  | .decode => [.ok, .bufferTooShort, .unrecognizedCommand]
  | .finish => [.ok, .packetIncomplete, .noPacket]
  | .csum => [.ok, .valueOutOfRange]
  | .setDest | .setSrc => [.ok, .noPacket, .valueOutOfRange]
  | .setAddr | .setCount | .setData => [.ok, .noPacket, .fieldNotApplicable, .valueOutOfRange, .bufferTooShort]
  | .setDatas | .setCaps => [.ok, .noPacket, .fieldNotApplicable, .argumentInvalid, .valueOutOfRange]
  | .setAddrs => [.ok, .noPacket, .fieldNotApplicable, .valueOutOfRange]
  | .setId3 | .setId5 =>
    [.ok, .noPacket, .fieldNotApplicable, .argumentInvalid, .valueOutOfRange, .bufferTooShort]
  | .getDest | .getSrc | .getLen | .getCmd | .getChecksum | .getKey | .getHeader => [.ok, .noPacket]
  | .getAddr | .getCount | .getData | .getId3 => [.ok, .noPacket, .fieldNotApplicable, .bufferTooShort]
  | .getDatacount | .getAddrcount | .getCaplen => [.ok, .noPacket, .fieldNotApplicable]
  | .initrq | .initrs | .rbrq | .rbrs | .rarq | .rars | .warq | .wars => [.ok, .bufferTooShort]

/-- The ten setters (42_field_setters) and the field each sets. -/
def setterField : Instr → Option Field
  | .setDest => some .dest
  | .setSrc => some .src
  | .setAddr => some .addr
  | .setCount => some .count
  | .setData => some .data
  | .setDatas => some .datas
  | .setAddrs => some .addrs
  | .setId3 => some .id3
  | .setId5 => some .id5
  | .setCaps => some .caps
  | .new _ | .decode | .finish | .check | .csum | .release => none
  | .getDest | .getSrc | .getAddr | .getCount | .getData | .getDatacount | .getAddrcount | .getId3 => none
  | .getCaplen | .getLen | .getCmd | .getChecksum | .getKey | .getHeader => none
  | .initrq | .initrs | .rbrq | .rbrs | .rarq | .rars | .warq | .wars => none

/-- What no operation of the block writes (10_state R25, R26, R31, R33, R36; 30_encoding R94): the operand registers,
BUFLEN, RA_MAX, STG, OVR, CMD_TABLE (R105) and the model's other fields of its own. -/
def KeepsHostSide (s t : State) : Prop :=
  t.stg = s.stg ∧ t.arg0 = s.arg0 ∧ t.arg1 = s.arg1 ∧ t.buflen = s.buflen ∧ t.raMax = s.raMax ∧ t.ovr = s.ovr ∧
    t.cmdTable = s.cmdTable ∧ t.latency = s.latency ∧ t.draws = s.draws ∧ t.epoch = s.epoch ∧ t.host = s.host ∧ t.rdata = s.rdata

/-- An operation has ended with this outcome, and nothing is in flight (00_scope R13). -/
def EndedWith (c : Code) (t : State) : Prop := t.code = c ∧ t.busy = false ∧ t.pending = none

/-- What a setter leaves alone beside PKT, TOTLEN and FLAGS (42_field_setters R200). -/
def SetterFrame (s t : State) : Prop :=
  EndedWith .ok t ∧ KeepsHostSide s t ∧ t.variant = s.variant ∧ t.res0 = s.res0 ∧ t.acc = s.acc ∧ t.result = s.result

/-- The packet's bytes after a setter stored `bytes` from `off` and set TOTLEN to `newLen` (42_field_setters R201,
R202): the field, then the zero fill of a growing packet, then everything else as it was. -/
def StoredField (off newLen : Nat) (bytes : List Byte) (s t : State) : Prop :=
  t.totlen = newLen ∧
    ∀ j, pktAt t j =
      if off ≤ j ∧ j < off + bytes.length then bytes.getD (j - off) 0x00#8
      else if s.totlen ≤ j ∧ j < newLen then 0x00#8
      else pktAt s j

/-- Whether a setter changed the packet: its length, or a byte below the new length (42_field_setters R201). -/
def PacketChanged (s t : State) : Prop := t.totlen ≠ s.totlen ∨ ∃ j, j < t.totlen ∧ pktAt t j ≠ pktAt s j

/-- The completion-tracker update of a setter whose flag is `x` (42_field_setters R201): the flag on, and CS off exactly
when the packet changed. -/
def TrackerUpdate (x : Flag) (s t : State) : Prop :=
  (PacketChanged s t → t.flags = (s.flags ||| x.mask) &&& 0x1F#6) ∧
    (¬ PacketChanged s t → t.flags = s.flags ||| x.mask)

/-- The size predicate of CHECK as the rows of its table (41_framer_lifecycle R175). -/
def SizeRule (v : Variant) (n : Nat) : Prop :=
  match v with
  | .initrq => n = 6
  | .initrs => 14 ≤ n
  | .rbrq => n = 11
  | .rbrs => 7 ≤ n
  | .rarq => 10 ≤ n ∧ (n - 7) % 3 = 0
  | .rars => 7 ≤ n
  | .warq => n = 10
  | .wars => n = 7

/-- The six tests of CHECK on the packet loaded as `v` (41_framer_lifecycle R174, R175). -/
def PassesCheck (v : Variant) (s : State) : Prop :=
  pktAt s 0 = 0x80#8 ∧ (pktAt s 3).toNat + 5 = s.totlen ∧ pktAt s 1 ≠ pktAt s 2 ∧
    pktAt s (s.totlen - 1) = csum s s.totlen ∧ pktAt s 4 = s.cmdTable.byte v ∧ SizeRule v s.totlen

/-- A packet under construction, as NEW `v` and successful setters leave it (41_framer_lifecycle R177): the marker and
the command byte stand, CS is off, the length is the initial one or one that CHECK admits, and it is the latter once
the first data field is set. -/
def State.Built (v : Variant) (s : State) : Prop :=
  s.variant = some v ∧ pktAt s 0 = Config.marker ∧ pktAt s 4 = s.cmdTable.byte v ∧
    s.flags &&& Flag.cs.mask = 0#6 ∧ initTotlen v ≤ s.totlen ∧ s.totlen ≤ 260 ∧
    (s.totlen = initTotlen v ∨ sizeOk v s.totlen = true) ∧
    (s.flags &&& Flag.d1.mask ≠ 0#6 → sizeOk v s.totlen = true)

end Sys2Proof.Machine
end

