-- ==== Sys2Proof/Certificates/Slice0/Obligations.lean ====
section
/-! DEFINITION. The statements for the provers. Each docstring names the rule of the spec it formalises; where a clause
is the model's own choice it names the log entry. Registers an operation reads as operands are `operandArg0`,
`operandArg1`, `operandBuflen` and `operandRaMax`: the values latched at acceptance, or the registers themselves when
nothing is in flight. -/

open Sys2Proof Sys2Proof.Machine

/-! ## Encoding -/

/-- Words and bytes written out from 30_encoding R91, R92 and R105 decode to what they stand for, and reserved ones to
nothing. Of the command bytes only the source's four, which every table that R105 admits has, are here. -/
def Obligations.WrittenWordsDecode : Prop :=
  decodeTableWord 32 0x00000101 = some (.new 1#4) ∧ decodeTableWord 32 0x00000801 = some (.new 8#4) ∧
  decodeTableWord 32 0x00000002 = some .decode ∧ decodeTableWord 32 0x00000005 = some .csum ∧
  decodeTableWord 32 0x00000010 = some .setDest ∧ decodeTableWord 32 0x00000019 = some .setCaps ∧
  decodeTableWord 32 0x00000020 = some .getDest ∧ decodeTableWord 32 0x0000002D = some .getHeader ∧
  decodeTableWord 8 0xBF = some .initrq ∧ decodeTableWord 8 0xE0 = some .rbrs ∧
  decodeTableWord 8 0xA8 = some .rarq ∧ decodeTableWord 8 0xF8 = some .wars ∧
  decodeTableWord 32 0x00000000 = none ∧ decodeTableWord 32 0x00000001 = none ∧
  decodeTableWord 32 0x00000901 = none ∧ decodeTableWord 32 0x00000103 = none ∧
  decodeTableWord 32 0x00001000 = none ∧ decodeTableWord 32 0x80000003 = none ∧
  decodeTableWord 32 0x0000001A = none ∧ decodeTableWord 8 0x00 = none

/-- Decoding the encoding of a well-formed instruction gives it back, for all thirty-eight and under every CMD_TABLE
that R105 admits. -/
def Obligations.DecodeOfEncode : Prop :=
  ∀ (table : CmdTable) (i : Instr), table.Legal → i.WellFormed → decode table (encode table i) = .instr i

/-- Every word and every command byte that decodes is the encoding of what it decodes to, which is well formed: no
instruction has a second encoding, whatever the CMD_TABLE. -/
def Obligations.EncodeOfDecode : Prop :=
  ∀ (table : CmdTable) (e : Encoding) (i : Instr),
    decode table e = .instr i → encode table i = e ∧ i.WellFormed

/-- R93: exactly the words it lists spell no operation. -/
def Obligations.ReservedWordsRejected : Prop :=
  ∀ w : Word,
    (∃ r, decodeOp w = .rejected r) ↔
      w.toNat / 4096 ≠ 0 ∨
      (w.toNat % 256 = 0x00 ∨ (0x07 ≤ w.toNat % 256 ∧ w.toNat % 256 ≤ 0x0F) ∨
        (0x1A ≤ w.toNat % 256 ∧ w.toNat % 256 ≤ 0x1F) ∨ 0x2E ≤ w.toNat % 256) ∨
      (w.toNat % 256 ≠ 0x01 ∧ w.toNat / 256 % 16 ≠ 0) ∨
      (w.toNat % 256 = 0x01 ∧ (w.toNat / 256 % 16 = 0 ∨ 9 ≤ w.toNat / 256 % 16))

/-- For every command-byte table that R105 admits, dispatch is the inverse of the table (R107): a byte selects the one
variant that has it. The default table is admitted; four of its bytes are PRESUMED (log 2). -/
def Obligations.LegalTablesDispatch : Prop :=
  defaultCmdTable.Legal ∧
    ∀ t : CmdTable, t.Legal → ∀ (b : Byte) (v : Variant), t.variantOf b = some v ↔ t.byte v = b

/-! ## The step and the handshake -/

/-- A step at a state whose operation in flight has had its time is that operation's execution: every statement about
`exec` reaches a run through this one (10_state R23, R40; 20_memory R67). -/
def Obligations.StepRunsPendingOperation : Prop :=
  ∀ (s : State) (p : Pending), s.pending = some p → s.latency = 0 → step s = exec p.op s

/-- A write to CMD of a word that spells an operation, while the block is idle, accepts it: OVR is cleared, BUSY set,
and the operation latched with its operand registers (R23). How long it takes is the free value (log 4). -/
def Obligations.CommandWriteAccepts : Prop :=
  ∀ (s : State) (w : Word) (i : Instr) (rest : List HostAction),
    s.host = .write 0x000#14 4 w :: rest → s.busy = false → s.pending = none → decodeOp w = .instr i →
    step s = .next { s with
      host := rest, ovr := false, busy := true,
      pending := some ⟨i, s.arg0, s.arg1, s.buflen, s.raMax⟩,
      latency := Config.opLatency w s.totlen s.arg0 s.draws, draws := s.draws + 1 }

/-- A word that spells no operation completes at once with IllegalOp and changes nothing outside STATUS (R92, R282).
That it clears OVR is the model's reading (log 8). -/
def Obligations.IllegalWordCompletesAtOnce : Prop :=
  ∀ (s : State) (w : Word) (r : Reject) (rest : List HostAction),
    s.host = .write 0x000#14 4 w :: rest → s.busy = false → s.pending = none → decodeOp w = .rejected r →
    step s = .next { s with host := rest, ovr := false, code := .illegalOp }

/-- While BUSY = 1 a mapped write is dropped and only sets OVR (R331), a read of STATUS is valid (R24), and a read of
anything else returns a free value (R332; log 5). A step of the latency goes by in each (log 4). -/
def Obligations.AccessesWhileBusy : Prop :=
  ∀ (s : State) (addr : BitVec 14) (w : Word) (rest : List HostAction),
    s.busy = true → s.latency ≠ 0 →
    (s.host = .write addr 4 w :: rest → (HostAction.write addr 4 w).mapped = true →
      step s = .next { s with host := rest, ovr := true, latency := s.latency - 1 }) ∧
    (s.host = .read 0x004#14 4 :: rest →
      step s = .next { s with host := rest, rdata := statusWord s, latency := s.latency - 1 }) ∧
    (s.host = .read addr 4 :: rest → addr ≠ 0x004#14 → (HostAction.read addr 4).mapped = true →
      step s = .next { s with
        host := rest, rdata := Config.busyRead addr s.draws, draws := s.draws + 1, latency := s.latency - 1 })

/-- WAIT reads STATUS, which is valid while BUSY = 1 (R24), and is taken again exactly while BUSY = 1 (R96; that it is
one action of the Host is the model's, log 19). That each such read lets one step of the latency go by is the model's
choice (R333 leaves OP_LATENCY open; log 4). -/
def Obligations.WaitPollsStatus : Prop :=
  ∀ (s : State) (rest : List HostAction),
    s.host = .wait :: rest → s.pending = none ∨ s.latency ≠ 0 →
    (s.busy = true → step s = .next { s with rdata := statusWord s, latency := s.latency - 1 }) ∧
    (s.busy = false → step s = .next { s with rdata := statusWord s, host := rest })

/-- An operation in flight completes after exactly its latency, whatever mapped accesses the Host makes meanwhile: after
that many steps nothing has changed but OVR and what the Host holds, the operands latched at acceptance among what
has not, and the next step is the operation's execution (R331, R333, R67; the count of steps is the model's, log 4). -/
def Obligations.OperationCompletesAfterLatency : Prop :=
  ∀ (s : State) (p : Pending),
    s.busy = true → s.pending = some p → (∀ a ∈ s.host, a.mapped = true ∧ a.isReset = false) →
    ∃ u : State,
      Host.Core.run Sys2Proof.core s.latency s = .next u ∧
      u = { s with latency := 0, ovr := u.ovr, host := u.host, rdata := u.rdata, draws := u.draws } ∧
      Host.Core.run Sys2Proof.core (s.latency + 1) s = exec p.op u

/-- Reset by the platform puts every piece of state to its reset value, abandons an operation in flight and draws new
buffer contents (R320); CMD_TABLE is a parameter and stays (R105). That the Host keeps its own accesses and the word it
read is the model's choice (log 15). -/
def Obligations.PlatformResetState : Prop :=
  ∀ (s : State) (rest : List HostAction),
    s.host = .reset :: rest → s.pending = none ∨ s.latency ≠ 0 →
    ∃ t, step s = .next t ∧
      t = { State.reset with
        cmdTable := s.cmdTable, epoch := s.epoch + 1, draws := s.draws, host := rest, rdata := s.rdata } ∧
      (∀ i, pktAt t i = Config.pktReset (s.epoch + 1) i) ∧ ∀ i, stgAt t i = Config.stgReset (s.epoch + 1) i

/-- The reset value of every piece of state that R41 lists; a byte of PKT or STG is the free parameter. That the reset
state draws those of epoch 0 is the model's choice (log 3). -/
def Obligations.ResetValues : Prop :=
  State.reset.totlen = 0 ∧ State.reset.variant = none ∧ State.reset.flags = 0x00#6 ∧ State.reset.buflen = 0 ∧
  State.reset.raMax = 36 ∧ State.reset.arg0 = 0#32 ∧ State.reset.arg1 = 0#32 ∧ State.reset.res0 = 0#32 ∧
  State.reset.acc = 0x00#8 ∧ State.reset.busy = false ∧ State.reset.ovr = false ∧ State.reset.result = false ∧
  State.reset.code = .ok ∧ State.reset.pending = none ∧
  (∀ i, pktAt State.reset i = Config.pktReset 0 i) ∧ ∀ i, stgAt State.reset i = Config.stgReset 0 i

/-! ## The host bus -/

/-- The STATUS word, bit by bit (R24): BUSY, OVR, RESULT, VALID as a view of VARIANT, four reserved bits that read 0,
CODE in [11:8], and the reserved bits above it. -/
def Obligations.StatusWordLayout : Prop :=
  ∀ s : State,
    (statusWord s).getLsbD 0 = s.busy ∧ (statusWord s).getLsbD 1 = s.ovr ∧ (statusWord s).getLsbD 2 = s.result ∧
    ((statusWord s).getLsbD 3 = true ↔ s.variant ≠ none) ∧
    (statusWord s).toNat / 16 % 16 = 0 ∧ (statusWord s).toNat / 256 % 16 = s.code.number ∧
    (statusWord s).toNat / 4096 = 0

/-- What each register of the map reads as while the block is idle (R22), and that the read changes nothing of the block
(R66). -/
def Obligations.RegisterReads : Prop :=
  ∀ (s : State) (rest : List HostAction) (row : BitVec 14 × Word),
    row ∈ [(0x000#14, 0#32), (0x004#14, statusWord s), (0x008#14, s.arg0), (0x00C#14, s.arg1),
      (0x010#14, s.res0), (0x014#14, BitVec.ofNat 32 s.flags.toNat), (0x018#14, BitVec.ofNat 32 s.totlen),
      (0x01C#14, BitVec.ofNat 32 (match s.variant with
        | none => 0 | some .initrq => 1 | some .initrs => 2 | some .rbrq => 3 | some .rbrs => 4
        | some .rarq => 5 | some .rars => 6 | some .warq => 7 | some .wars => 8)),
      (0x020#14, BitVec.ofNat 32 s.buflen), (0x024#14, BitVec.ofNat 32 s.raMax),
      (0x028#14, BitVec.ofNat 32 s.acc.toNat), (0x02C#14, 0x53534D32#32)] →
    s.busy = false → s.pending = none → s.host = .read row.1 4 :: rest →
    step s = .next { s with host := rest, rdata := row.2 }

/-- What a write to each register but CMD does while the block is idle: ARG0 and ARG1 store the word (R25, R26), BUFLEN
and CONFIG store a legal value and keep the old one otherwise (R33, R31), and the rest ignore it (R22). -/
def Obligations.RegisterWrites : Prop :=
  ∀ (s : State) (addr : BitVec 14) (w : Word) (rest : List HostAction),
    s.busy = false → s.pending = none → s.host = .write addr 4 w :: rest →
    (addr = 0x008#14 → step s = .next { s with host := rest, arg0 := w }) ∧
    (addr = 0x00C#14 → step s = .next { s with host := rest, arg1 := w }) ∧
    (addr = 0x020#14 → step s = .next { s with
      host := rest, buflen := if w.toNat ≤ 260 then w.toNat else s.buflen }) ∧
    (addr = 0x024#14 → step s = .next { s with
      host := rest,
      raMax := if 1 ≤ w.toNat % 128 ∧ w.toNat % 128 ≤ 84 then w.toNat % 128 else s.raMax }) ∧
    (addr ∈ [0x004#14, 0x010#14, 0x014#14, 0x018#14, 0x01C#14, 0x028#14, 0x02C#14] →
      step s = .next { s with host := rest })

/-- R64, for each of the 260 words of the PKT window: a read returns the byte, a write stores bits [7:0] and changes no
other byte and no register. -/
def Obligations.PktWindow : Prop :=
  ∀ (s : State) (i : Nat) (w : Word) (rest : List HostAction),
    i ≤ 259 → s.busy = false → s.pending = none →
    (s.host = .read (BitVec.ofNat 14 (0x1000 + 4 * i)) 4 :: rest →
      step s = .next { s with host := rest, rdata := BitVec.ofNat 32 (pktAt s i).toNat }) ∧
    (s.host = .write (BitVec.ofNat 14 (0x1000 + 4 * i)) 4 w :: rest →
      ∃ t, step s = .next t ∧ t = { s with host := rest, pkt := t.pkt } ∧
        ∀ j, pktAt t j = if j = i then BitVec.ofNat 8 (w.toNat % 256) else pktAt s j)

/-- R65, for each of the 256 words of the STG window. -/
def Obligations.StgWindow : Prop :=
  ∀ (s : State) (i : Nat) (w : Word) (rest : List HostAction),
    i ≤ 255 → s.busy = false → s.pending = none →
    (s.host = .read (BitVec.ofNat 14 (0x2000 + 4 * i)) 4 :: rest →
      step s = .next { s with host := rest, rdata := BitVec.ofNat 32 (stgAt s i).toNat }) ∧
    (s.host = .write (BitVec.ofNat 14 (0x2000 + 4 * i)) 4 w :: rest →
      ∃ t, step s = .next t ∧ t = { s with host := rest, stg := t.stg } ∧
        ∀ j, stgAt t j = if j = i then BitVec.ofNat 8 (w.toNat % 256) else stgAt s j)

/-- R63: a host access is a bus error, which the model reports as a fault, exactly in its three cases. The rule makes no
exception while BUSY = 1, and neither does the model (log 9). -/
def Obligations.BusErrorCases : Prop :=
  ∀ (s : State) (addr : BitVec 14) (bytes : Nat) (w : Word) (rest : List HostAction),
    s.pending = none ∨ s.latency ≠ 0 →
    s.host = .read addr bytes :: rest ∨ s.host = .write addr bytes w :: rest →
    (step s = .fault .busError ↔
      bytes ≠ 4 ∨ addr.toNat % 4 ≠ 0 ∨
        ¬ (addr.toNat ≤ 0x02F ∨ (0x1000 ≤ addr.toNat ∧ addr.toNat ≤ 0x140F) ∨
          (0x2000 ≤ addr.toNat ∧ addr.toNat ≤ 0x23FF)))

/-- Nothing but a bus error stops the machine: no step refuses, and a step that faults has an unmapped access as its
next action (R63, R290). -/
def Obligations.OnlyBusErrorsStop : Prop :=
  ∀ s : State,
    (∀ r, step s ≠ .refused r) ∧
    ∀ f, step s = .fault f → f = .busError ∧ ∃ a rest, s.host = a :: rest ∧ a.mapped = false

/-- From every state, a host program without bus errors runs on for any number of steps (R63, R290, R296). -/
def Obligations.MappedHostNeverStops : Prop :=
  ∀ (k : Nat) (s : State), (∀ a ∈ s.host, a.mapped = true) →
    ∃ t : State, Host.Core.run Sys2Proof.core k s = .next t

/-- LOADBUF (R96) on an idle block puts its bytes at PKT[0..k) and their number into BUFLEN, one step each, and leaves
every other byte and register. -/
def Obligations.LoadbufFillsBuffer : Prop :=
  ∀ (s : State) (bs : List Byte) (rest : List HostAction),
    s.busy = false → s.pending = none → bs.length ≤ 260 → s.host = asmLoadbuf bs ++ rest →
    ∃ t : State, Host.Core.run Sys2Proof.core (bs.length + 1) s = .next t ∧
      t = { s with host := rest, pkt := t.pkt, buflen := bs.length } ∧
      ∀ j, pktAt t j = if j < bs.length then bs.getD j 0x00#8 else pktAt s j

/-! ## The invariant -/

/-- The reset state has the invariant. -/
def Obligations.ResetHasInvariant : Prop := State.reset.Inv

/-- From every state with the invariant, a step gives a state with it: the packet invariant of R37, legal RA_MAX and
BUFLEN (R31, R33), BUSY exactly while an operation is in flight with its operands latched (R24, R40), both buffers in
canonical form, and a CMD_TABLE that R105 admits, the same one, for it is a parameter. -/
def Obligations.StepKeepsInvariant : Prop :=
  ∀ s t : State, s.Inv → step s = .next t → t.Inv ∧ t.cmdTable = s.cmdTable

/-- Every operation ends (BUSY 0, nothing in flight) and writes none of ARG0, ARG1, BUFLEN, RA_MAX, STG and OVR (R25,
R26, R31, R33, R36), nor the model's own fields, CMD_TABLE among them; and none but NEW, DECODE, RELEASE and the wire variants changes
VARIANT (R37). -/
def Obligations.OperationsKeepHostSide : Prop :=
  ∀ (i : Instr) (s t : State), exec i s = .next t →
    KeepsHostSide s t ∧ EndedWith t.code t ∧
    (t.variant ≠ s.variant →
      (∃ var, i = .new var) ∨
      i ∈ [Instr.decode, .release, .initrq, .initrs, .rbrq, .rbrs, .rarq, .rars, .warq, .wars])

/-! ## The checksum accumulator -/

/-- The accumulator law (R142): the loop gives csum(n); so does adding the bytes in any order, in a register of any width
from 8 bits up, with the low 8 bits taken at the end; and the exact sum is at most 66045, below 2^17. -/
def Obligations.AccumulatorLaw : Prop :=
  ∀ (s : State) (n : Nat), 1 ≤ n → n ≤ 260 →
    (accumulate n s).acc = csum s n ∧
    (∀ (order : List Nat) (width : Nat), 8 ≤ width → order.Perm (List.range (n - 1)) →
      (order.foldl (fun (a : BitVec width) i => a + (pktAt s i).setWidth width) 0#width).setWidth 8 = csum s n) ∧
    sumPkt s (n - 1) ≤ 66045

/-- CSUM (R143): for 1 to 260 it leaves the low byte of the exact sum in ACC and RES0, loaded packet or not, and
otherwise it is ValueOutOfRange; nothing else changes. -/
def Obligations.CsumResult : Prop :=
  ∀ (s : State) (n : Nat), (operandArg0 s).toNat = n →
    (1 ≤ n ∧ n ≤ 260 → exec .csum s = .next { s with
      acc := csum s n, res0 := BitVec.ofNat 32 (csum s n).toNat, code := .ok, busy := false, pending := none }) ∧
    (n < 1 ∨ 260 < n → exec .csum s = .next { s with code := .valueOutOfRange, busy := false, pending := none })

/-- Single-byte detection (R145): where the checksum byte is right, changing any one byte of the packet makes it wrong,
and CHECK then answers 0. -/
def Obligations.SingleByteChangeDetected : Prop :=
  ∀ (s : State) (v : Variant) (k : Nat) (b : Byte),
    s.variant = some v → 6 ≤ s.totlen → s.totlen ≤ 260 →
    pktAt s (s.totlen - 1) = csum s s.totlen → k < s.totlen → b ≠ pktAt s k →
    pktAt (setPkt k b s) (s.totlen - 1) ≠ csum (setPkt k b s) s.totlen ∧
    ∃ t, exec .check (setPkt k b s) = .next t ∧ t.result = false

/-- ACC is written by CSUM, by FINISH when it stamps and by CHECK on a loaded packet, none of them failing, and by
nothing else (R144). -/
def Obligations.AccWriters : Prop :=
  ∀ (i : Instr) (s t : State), exec i s = .next t → t.acc ≠ s.acc →
    t.code = .ok ∧
    (i = .csum ∨ (i = .finish ∧ s.variant ≠ none ∧ s.flags = 0x1F#6) ∨ (i = .check ∧ s.variant ≠ none))

/-! ## Lifecycle -/

/-- NEW (R160, with the sizes and presets of R161 written out): all of PKT is 0x00 but for the marker and the command
byte that the block's CMD_TABLE gives (R105), and nothing outside PKT, TOTLEN, FLAGS, VARIANT and STATUS changes. No word with another VAR reaches NEW. -/
def Obligations.NewBuildsEmptyPacket : Prop :=
  (∀ (s : State) (var : BitVec 4) (v : Variant) (len : Nat) (pre : BitVec 6),
    (var, v, len, pre) ∈ [(1#4, Variant.initrq, 6, 0x1C#6), (2#4, .initrs, 14, 0x10#6), (3#4, .rbrq, 11, 0x10#6),
      (4#4, .rbrs, 6, 0x18#6), (5#4, .rarq, 7, 0x18#6), (6#4, .rars, 6, 0x18#6), (7#4, .warq, 10, 0x10#6),
      (8#4, .wars, 7, 0x18#6)] →
    ∃ t, exec (.new var) s = .next t ∧
      t = { s with
        pkt := t.pkt, totlen := len, flags := pre, variant := some v, code := .ok, busy := false, pending := none } ∧
      ∀ j, pktAt t j =
        if j = 0 then 0x80#8 else if j = 4 then s.cmdTable.byte v else if j < 260 then 0x00#8 else pktAt s j) ∧
  ∀ (w : Word) (var : BitVec 4), decodeOp w = .instr (.new var) → 1 ≤ var.toNat ∧ var.toNat ≤ 8

/-- DECODE (R163), its outcomes in the order of its tests (R164): a buffer below 6 bytes; an unrecognized command byte;
a length byte of 0 or a buffer below PKT[3] + 5; and the packet loaded as it is, every flag set. No byte of PKT
changes in any of them. The variant is the one whose byte the block's CMD_TABLE, any that R105 admits, has at PKT[4]. -/
def Obligations.DecodeOutcomes : Prop :=
  ∀ s : State,
    let failed : Code → State := fun c => { s with
      variant := none, totlen := 0, flags := 0x00#6, res0 := 0#32, code := c, busy := false, pending := none }
    (operandBuflen s < 6 → exec .decode s = .next (failed .bufferTooShort)) ∧
    (6 ≤ operandBuflen s → (∀ v, s.cmdTable.byte v ≠ pktAt s 4) →
      exec .decode s = .next (failed .unrecognizedCommand)) ∧
    ∀ v, s.cmdTable.Legal → 6 ≤ operandBuflen s → s.cmdTable.byte v = pktAt s 4 →
      ((pktAt s 3).toNat + 5 < 6 ∨ operandBuflen s < (pktAt s 3).toNat + 5 →
        exec .decode s = .next (failed .bufferTooShort)) ∧
      (6 ≤ (pktAt s 3).toNat + 5 → (pktAt s 3).toNat + 5 ≤ operandBuflen s →
        exec .decode s = .next { s with
          variant := some v, totlen := (pktAt s 3).toNat + 5, flags := 0x3F#6, res0 := BitVec.ofNat 32 v.code,
          code := .ok, busy := false, pending := none })

/-- Each of the eight wire variants takes its length from the length byte alone (R103), loads the packet as its own
variant with every flag set (R166) and keeps PKT, or is BufferTooShort and leaves no packet (R163, R168). That a wire
row of the table means this constructor is the model's choice (log 12). -/
def Obligations.WireVariantsLoad : Prop :=
  ∀ (s : State) (i : Instr) (v : Variant) (code : Nat),
    (i, v, code) ∈ [(Instr.initrq, Variant.initrq, 1), (.initrs, .initrs, 2), (.rbrq, .rbrq, 3), (.rbrs, .rbrs, 4),
      (.rarq, .rarq, 5), (.rars, .rars, 6), (.warq, .warq, 7), (.wars, .wars, 8)] →
    (1 ≤ (pktAt s 3).toNat → (pktAt s 3).toNat + 5 ≤ operandBuflen s →
      exec i s = .next { s with
        variant := some v, totlen := (pktAt s 3).toNat + 5, flags := 0x3F#6, res0 := BitVec.ofNat 32 code,
        code := .ok, busy := false, pending := none }) ∧
    ((pktAt s 3).toNat = 0 ∨ operandBuflen s < (pktAt s 3).toNat + 5 →
      exec i s = .next { s with
        variant := none, totlen := 0, flags := 0x00#6, res0 := 0#32,
        code := .bufferTooShort, busy := false, pending := none })

/-- DECODE is dispatch: with a buffer of at least 6 bytes it runs the wire instruction that the byte at offset 4 decodes
to under the block's CMD_TABLE (R107), whatever the other bytes hold. That a wire row of the table means this
constructor is the model's choice (log 12). -/
def Obligations.DecodeRunsDispatchedVariant : Prop :=
  ∀ (s : State) (i : Instr), 6 ≤ operandBuflen s → decode s.cmdTable (.command (pktAt s 4)) = .instr i →
    exec .decode s = exec i s

/-- FINISH on exactly AllButChecksum (R169): the length byte and a checksum that covers it, in ACC too; no other byte of
PKT changes. -/
def Obligations.FinishStamps : Prop :=
  ∀ (s : State) (v : Variant),
    s.variant = some v → 6 ≤ s.totlen → s.totlen ≤ 260 → s.flags = 0x1F#6 →
    ∃ t, exec .finish s = .next t ∧
      t = { s with
        pkt := t.pkt, acc := csum t s.totlen, flags := 0x3F#6, res0 := 0#32,
        code := .ok, busy := false, pending := none } ∧
      pktAt t 3 = BitVec.ofNat 8 (s.totlen - 5) ∧ pktAt t (s.totlen - 1) = csum t s.totlen ∧
      ∀ j, j ≠ 3 → j ≠ s.totlen - 1 → pktAt t j = pktAt s j

/-- FINISH in its other cases (R169): NoPacket, the no-op on AllOk, and PacketIncomplete, which writes to RES0 a 1 for
each of SRC, DST, D1, D2 and D3 whose flag is 0 and nothing else (R170). -/
def Obligations.FinishWithoutStamping : Prop :=
  ∀ s : State,
    (s.variant = none →
      exec .finish s = .next { s with code := .noPacket, busy := false, pending := none }) ∧
    ∀ v, s.variant = some v →
      (s.flags = 0x3F#6 →
        exec .finish s = .next { s with res0 := 0#32, code := .ok, busy := false, pending := none }) ∧
      (s.flags ≠ 0x3F#6 → s.flags ≠ 0x1F#6 →
        ∃ mask : Word,
          exec .finish s =
            .next { s with res0 := mask, code := .packetIncomplete, busy := false, pending := none } ∧
          (∀ k, k < 5 → mask.getLsbD k = !s.flags.getLsbD k) ∧ ∀ k, 5 ≤ k → mask.getLsbD k = false)

/-- FINISH is idempotent (R169, R171): after one that ends OK, FLAGS is AllOk and a second changes nothing at all. -/
def Obligations.FinishIsIdempotent : Prop :=
  ∀ s t : State, exec .finish s = .next t → t.code = .ok → t.flags = 0x3F#6 ∧ exec .finish t = .next t

/-- A DECODE that ends OK trusts its input (R166): every flag is set and no checksum is computed. A FINISH after it, by
its AllOk case, ends OK and puts RES0, which held the variant code, to 0, and changes nothing else (R169), whether or
not the checksum byte is right. -/
def Obligations.FinishAfterDecodeOnlyClearsRes0 : Prop :=
  ∀ s t : State, exec .decode s = .next t → t.code = .ok →
    t.flags = 0x3F#6 ∧ t.acc = s.acc ∧ exec .finish t = .next { t with res0 := 0#32 }

/-- CHECK (R176): always OK. With a loaded packet RES0 holds the six tests of R174 and R175 and their conjunction, which
RESULT holds too, and ACC the computed checksum; with none, RES0 and RESULT are 0 and ACC is kept. -/
def Obligations.CheckVerdict : Prop :=
  ∀ s : State,
    (s.variant = none → exec .check s = .next { s with
      res0 := 0#32, result := false, code := .ok, busy := false, pending := none }) ∧
    ∀ v, s.variant = some v →
      ∃ (detail : Word) (all : Bool),
        exec .check s = .next { s with
          acc := csum s s.totlen, res0 := detail, result := all, code := .ok, busy := false, pending := none } ∧
        (all = true ↔ PassesCheck v s) ∧ detail.getLsbD 0 = all ∧
        (detail.getLsbD 1 = true ↔ pktAt s 0 = 0x80#8) ∧
        (detail.getLsbD 2 = true ↔ (pktAt s 3).toNat + 5 = s.totlen) ∧
        (detail.getLsbD 3 = true ↔ pktAt s 1 ≠ pktAt s 2) ∧
        (detail.getLsbD 4 = true ↔ pktAt s (s.totlen - 1) = csum s s.totlen) ∧
        (detail.getLsbD 5 = true ↔ pktAt s 4 = s.cmdTable.byte v) ∧
        (detail.getLsbD 6 = true ↔ SizeRule v s.totlen) ∧
        ∀ k, 7 ≤ k → detail.getLsbD k = false

/-- CHECK reads the packet and nothing else (R174 to R176): on two states with the same VARIANT, TOTLEN and CMD_TABLE
and the same bytes below TOTLEN, whatever FLAGS (R38), RA_MAX (R31, R175), BUFLEN, STG, the operand registers, RES0, ACC,
STATUS, the bytes above the packet and the model's own fields hold, its verdict, its outcome and, on a packet, the
checksum in ACC are the same. -/
def Obligations.CheckReadsOnlyThePacket : Prop :=
  ∀ s s' t t' : State,
    s'.variant = s.variant → s'.totlen = s.totlen → s'.cmdTable = s.cmdTable →
    (∀ j, j < s.totlen → pktAt s' j = pktAt s j) → (s.variant ≠ none → 6 ≤ s.totlen) →
    exec .check s = .next t → exec .check s' = .next t' →
    t'.res0 = t.res0 ∧ t'.result = t.result ∧ t'.code = t.code ∧ (s.variant ≠ none → t'.acc = t.acc)

/-- RELEASE (R180): the "no packet" state, with PKT, STG, RES0, ACC and RESULT kept. -/
def Obligations.ReleaseUnloads : Prop :=
  ∀ s : State, exec .release s = .next { s with
    variant := none, totlen := 0, flags := 0x00#6, code := .ok, busy := false, pending := none }

/-! ## Setters -/

/-- SET DEST and SET SRC on a loaded packet (R203, R204): the byte at offset 1 or 2 and its flag, DEST equal to SRC
included. -/
def Obligations.SetIdentifiers : Prop :=
  ∀ (s : State) (v : Variant),
    s.variant = some v → (operandArg0 s).toNat ≤ 0xFF →
    (∃ t, exec .setDest s = .next t ∧ SetterFrame s t ∧ TrackerUpdate .dst s t ∧
      StoredField 1 s.totlen [BitVec.ofNat 8 (operandArg0 s).toNat] s t) ∧
    ∃ t, exec .setSrc s = .next t ∧ SetterFrame s t ∧ TrackerUpdate .src s t ∧
      StoredField 2 s.totlen [BitVec.ofNat 8 (operandArg0 s).toNat] s t

/-- SET ADDR on a packet with room for the field (R205): three bytes, most significant first (R120). -/
def Obligations.SetAddress : Prop :=
  ∀ (s : State) (v : Variant) (off a : Nat),
    s.variant = some v → (v, off) ∈ [(Variant.rbrq, 6), (.warq, 5)] → (operandArg0 s).toNat = a → a ≤ 0xFFFFFF →
    off + 3 ≤ s.totlen - 1 → s.totlen ≤ 260 →
    ∃ t, exec .setAddr s = .next t ∧ SetterFrame s t ∧ TrackerUpdate .d1 s t ∧
      StoredField off s.totlen
        [BitVec.ofNat 8 (a / 65536), BitVec.ofNat 8 (a / 256 % 256), BitVec.ofNat 8 (a % 256)] s t

/-- SET COUNT and SET DATA on a packet with room for the field (R206, R207): a logical count is stored less one
(R119). -/
def Obligations.SetCountAndData : Prop :=
  ∀ (s : State) (k : Nat), (operandArg0 s).toNat = k → s.totlen ≤ 260 →
    (s.variant = some .rbrq → 1 ≤ k → k ≤ 256 → 9 + 1 ≤ s.totlen - 1 →
      ∃ t, exec .setCount s = .next t ∧ SetterFrame s t ∧ TrackerUpdate .d2 s t ∧
        StoredField 9 s.totlen [BitVec.ofNat 8 (k - 1)] s t) ∧
    (s.variant = some .warq → k ≤ 0xFF → 8 + 1 ≤ s.totlen - 1 →
      ∃ t, exec .setData s = .next t ∧ SetterFrame s t ∧ TrackerUpdate .d2 s t ∧
        StoredField 8 s.totlen [BitVec.ofNat 8 k] s t) ∧
    (s.variant = some .wars → k ≤ 0xFF → 5 + 1 ≤ s.totlen - 1 →
      ∃ t, exec .setData s = .next t ∧ SetterFrame s t ∧ TrackerUpdate .d1 s t ∧
        StoredField 5 s.totlen [BitVec.ofNat 8 k] s t)

/-- SET ID3 and SET ID5 on an init response with room for the field (R210, R211): the bytes of STG in order. -/
def Obligations.SetIdentifierStrings : Prop :=
  ∀ s : State, s.variant = some .initrs → s.totlen ≤ 260 →
    ((operandArg1 s).toNat = 3 → 5 + 3 ≤ s.totlen - 1 →
      ∃ t, exec .setId3 s = .next t ∧ SetterFrame s t ∧ TrackerUpdate .d1 s t ∧
        StoredField 5 s.totlen [stgAt s 0, stgAt s 1, stgAt s 2] s t) ∧
    ((operandArg1 s).toNat = 5 → 8 + 5 ≤ s.totlen - 1 →
      ∃ t, exec .setId5 s = .next t ∧ SetterFrame s t ∧ TrackerUpdate .d2 s t ∧
        StoredField 8 s.totlen [stgAt s 0, stgAt s 1, stgAt s 2, stgAt s 3, stgAt s 4] s t)

/-- SET DATAS, SET ADDRS and SET CAPS (R208, R209, R212): the new length, the bytes of STG from the field's offset, zero
fill where the packet grows, and every other byte as it was, the bytes a shrinking packet drops among them (R202). -/
def Obligations.SetSizedFields : Prop :=
  ∀ (s : State) (n : Nat), (operandArg1 s).toNat = n → 1 ≤ n →
    (s.variant = some .rbrs ∨ s.variant = some .rars → n ≤ 254 →
      ∃ t, exec .setDatas s = .next t ∧ SetterFrame s t ∧ TrackerUpdate .d1 s t ∧
        StoredField 5 (6 + n) ((List.range n).map (stgAt s)) s t) ∧
    (s.variant = some .rarq → n ≤ operandRaMax s → n ≤ 84 →
      ∃ t, exec .setAddrs s = .next t ∧ SetterFrame s t ∧ TrackerUpdate .d1 s t ∧
        StoredField 6 (7 + 3 * n) ((List.range (3 * n)).map (stgAt s)) s t) ∧
    (s.variant = some .initrs → n ≤ 246 →
      ∃ t, exec .setCaps s = .next t ∧ SetterFrame s t ∧ TrackerUpdate .d3 s t ∧
        StoredField 13 (14 + n) ((List.range n).map (stgAt s)) s t)

/-- The first two tests of every setter (R200): without a packet NoPacket, and on a variant that has not the field
(the rows of R110) FieldNotApplicable, whatever the operands hold; nothing but STATUS changes. -/
def Obligations.SetterStateTests : Prop :=
  ∀ s : State,
    (s.variant = none → ∀ i f, setterField i = some f →
      exec i s = .next { s with code := .noPacket, busy := false, pending := none }) ∧
    ∀ v i variants, s.variant = some v →
      (i, variants) ∈ [(Instr.setAddr, [Variant.rbrq, .warq]), (.setCount, [.rbrq]), (.setData, [.warq, .wars]),
        (.setDatas, [.rbrs, .rars]), (.setAddrs, [.rarq]), (.setId3, [.initrs]), (.setId5, [.initrs]),
        (.setCaps, [.initrs])] →
      v ∉ variants →
      exec i s = .next { s with code := .fieldNotApplicable, busy := false, pending := none }

/-- The operand tests of the setters (R200 tests 3 and 4; R286, R287): a zero-length byte string is ArgumentInvalid, an
empty address list and every other operand out of range ValueOutOfRange, before the size of the packet is looked at;
nothing but STATUS changes. -/
def Obligations.SetterOperandTests : Prop :=
  ∀ (s : State) (v : Variant) (a n : Nat),
    s.variant = some v → (operandArg0 s).toNat = a → (operandArg1 s).toNat = n →
    let ends : Instr → Code → Prop := fun i c =>
      exec i s = .next { s with code := c, busy := false, pending := none }
    (0xFF < a → ends .setDest .valueOutOfRange ∧ ends .setSrc .valueOutOfRange) ∧
    (v = .rbrq ∨ v = .warq → 0xFFFFFF < a → ends .setAddr .valueOutOfRange) ∧
    (v = .rbrq → a < 1 ∨ 256 < a → ends .setCount .valueOutOfRange) ∧
    (v = .warq ∨ v = .wars → 0xFF < a → ends .setData .valueOutOfRange) ∧
    (v = .rbrs ∨ v = .rars →
      (n = 0 → ends .setDatas .argumentInvalid) ∧ (254 < n → ends .setDatas .valueOutOfRange)) ∧
    (v = .rarq → n = 0 ∨ operandRaMax s < n → ends .setAddrs .valueOutOfRange) ∧
    (v = .initrs →
      (n = 0 → ends .setId3 .argumentInvalid ∧ ends .setId5 .argumentInvalid ∧ ends .setCaps .argumentInvalid) ∧
      (n ≠ 0 → n ≠ 3 → ends .setId3 .valueOutOfRange) ∧ (n ≠ 0 → n ≠ 5 → ends .setId5 .valueOutOfRange) ∧
      (246 < n → ends .setCaps .valueOutOfRange))

/-- The last test of the fixed-offset setters (R200 test 5; R285): with operands in range, a field that would reach the
checksum byte of a short packet is BufferTooShort, and nothing but STATUS changes. -/
def Obligations.SettersRefuseShortPackets : Prop :=
  ∀ (s : State) (v : Variant) (a n : Nat),
    s.variant = some v → (operandArg0 s).toNat = a → (operandArg1 s).toNat = n →
    let short : Instr → Prop := fun i =>
      exec i s = .next { s with code := .bufferTooShort, busy := false, pending := none }
    (a ≤ 0xFFFFFF → (v = .rbrq ∧ s.totlen - 1 < 6 + 3) ∨ (v = .warq ∧ s.totlen - 1 < 5 + 3) → short .setAddr) ∧
    (v = .rbrq → 1 ≤ a → a ≤ 256 → s.totlen - 1 < 9 + 1 → short .setCount) ∧
    (a ≤ 0xFF → (v = .warq ∧ s.totlen - 1 < 8 + 1) ∨ (v = .wars ∧ s.totlen - 1 < 5 + 1) → short .setData) ∧
    (v = .initrs → n = 3 → s.totlen - 1 < 5 + 3 → short .setId3) ∧
    (v = .initrs → n = 5 → s.totlen - 1 < 8 + 5 → short .setId5)

/-- No setter touches the marker, the length byte, the command byte or, where the variant has one, the padding byte (R109,
R202). -/
def Obligations.SettersKeepFramingBytes : Prop :=
  ∀ (i : Instr) (f : Field) (s t : State) (v : Variant),
    setterField i = some f → s.variant = some v → 6 ≤ s.totlen → exec i s = .next t →
    pktAt t 0 = pktAt s 0 ∧ pktAt t 3 = pktAt s 3 ∧ pktAt t 4 = pktAt s 4 ∧
      (v = .rbrq ∨ v = .rarq → pktAt t 5 = pktAt s 5)

/-- Stale-checksum invalidation (R214): on an AllOk packet, a successful setter that changes it leaves exactly
AllButChecksum, and the FINISH after it stamps the length and the checksum anew. -/
def Obligations.ChangedPacketIsRestamped : Prop :=
  ∀ (i : Instr) (f : Field) (s t : State),
    s.Inv → setterField i = some f → exec i s = .next t → t.code = .ok → s.flags = 0x3F#6 → PacketChanged s t →
    t.flags = 0x1F#6 ∧
    ∃ u, exec .finish t = .next u ∧ u.code = .ok ∧ u.totlen = t.totlen ∧
      (pktAt u 3).toNat + 5 = u.totlen ∧ pktAt u (u.totlen - 1) = csum u u.totlen

/-! ## Getters -/

/-- GET DEST, SRC, LEN, CMD, CHECKSUM, KEY and HEADER (R241, R242, R250 to R254): the byte as it stands, in every variant
and whatever FLAGS holds, or NoPacket; nothing else changes. -/
def Obligations.HeaderGetters : Prop :=
  ∀ (s : State) (i : Instr) (value : Nat),
    (i, value) ∈ [(Instr.getDest, (pktAt s 1).toNat), (.getSrc, (pktAt s 2).toNat), (.getLen, (pktAt s 3).toNat),
      (.getCmd, (pktAt s 4).toNat), (.getChecksum, (pktAt s (s.totlen - 1)).toNat),
      (.getKey, s.totlen * 256 + (pktAt s (s.totlen - 1)).toNat), (.getHeader, (pktAt s 0).toNat)] →
    (s.variant = none → exec i s = .next { s with code := .noPacket, busy := false, pending := none }) ∧
    ∀ v, s.variant = some v → exec i s = .next { s with
      res0 := BitVec.ofNat 32 value, code := .ok, busy := false, pending := none }

/-- GET ADDR, COUNT, DATA and ID3 (R243, R244, R245, R248): three bytes big-endian, the stored count plus one, one byte,
three bytes; NoPacket, FieldNotApplicable on every other variant, and BufferTooShort on a short packet. -/
def Obligations.FieldGetters : Prop :=
  ∀ (s : State) (i : Instr),
    (i ∈ [Instr.getAddr, .getCount, .getData, .getId3] → s.variant = none →
      exec i s = .next { s with code := .noPacket, busy := false, pending := none }) ∧
    (∀ v variants, (i, variants) ∈ [(Instr.getAddr, [Variant.rbrq, .warq]), (.getCount, [.rbrq]),
        (.getData, [.warq, .wars]), (.getId3, [.initrs])] →
      s.variant = some v → v ∉ variants →
      exec i s = .next { s with code := .fieldNotApplicable, busy := false, pending := none }) ∧
    ∀ v off width value, (i, v, off, width, value) ∈
        [(Instr.getAddr, Variant.rbrq, 6, 3,
            (pktAt s 6).toNat * 65536 + (pktAt s 7).toNat * 256 + (pktAt s 8).toNat),
          (.getAddr, .warq, 5, 3, (pktAt s 5).toNat * 65536 + (pktAt s 6).toNat * 256 + (pktAt s 7).toNat),
          (.getCount, .rbrq, 9, 1, (pktAt s 9).toNat + 1), (.getData, .warq, 8, 1, (pktAt s 8).toNat),
          (.getData, .wars, 5, 1, (pktAt s 5).toNat),
          (.getId3, .initrs, 5, 3,
            (pktAt s 5).toNat * 65536 + (pktAt s 6).toNat * 256 + (pktAt s 7).toNat)] →
      s.variant = some v →
      (off + width ≤ s.totlen - 1 → exec i s = .next { s with
        res0 := BitVec.ofNat 32 value, code := .ok, busy := false, pending := none }) ∧
      (s.totlen - 1 < off + width →
        exec i s = .next { s with code := .bufferTooShort, busy := false, pending := none })

/-- GET DATACOUNT, ADDRCOUNT and CAPLEN (R246, R247, R249): the count TOTLEN implies, 0 where it implies none; NoPacket,
and FieldNotApplicable on every other variant. -/
def Obligations.CountGetters : Prop :=
  ∀ (s : State) (i : Instr) (variants : List Variant) (count : Nat),
    (i, variants, count) ∈
      [(Instr.getDatacount, [Variant.rbrs, .rars],
          if 1 ≤ s.totlen - 6 ∧ s.totlen - 6 ≤ 254 then s.totlen - 6 else 0),
        (.getAddrcount, [.rarq], if 10 ≤ s.totlen ∧ (s.totlen - 7) % 3 = 0 then (s.totlen - 7) / 3 else 0),
        (.getCaplen, [.initrs], if 14 ≤ s.totlen then s.totlen - 14 else 0)] →
    (s.variant = none → exec i s = .next { s with code := .noPacket, busy := false, pending := none }) ∧
    ∀ v, s.variant = some v →
      (v ∉ variants → exec i s = .next { s with code := .fieldNotApplicable, busy := false, pending := none }) ∧
      (v ∈ variants → exec i s = .next { s with
        res0 := BitVec.ofNat 32 count, code := .ok, busy := false, pending := none })

/-- What a scalar setter stores its getter returns: every identifier, every 24-bit address, every count 1 to 256 (R244)
and every data byte, from any setter that ends OK. -/
def Obligations.GetReturnsWhatSetStored : Prop :=
  ∀ (put get : Instr) (s t u : State),
    (put, get) ∈ [(Instr.setDest, Instr.getDest), (.setSrc, .getSrc), (.setAddr, .getAddr), (.setCount, .getCount),
      (.setData, .getData)] →
    s.totlen ≤ 260 → exec put s = .next t → t.code = .ok → exec get t = .next u →
    u.code = .ok ∧ u.res0 = operandArg0 s

/-- GET KEY decides the source's equality (R181): the keys of two loaded packets agree exactly when their total lengths
and stored checksum bytes do. -/
def Obligations.KeysDecideEquality : Prop :=
  ∀ (s s' t t' : State) (v v' : Variant),
    s.variant = some v → s'.variant = some v' → s.totlen ≤ 260 → s'.totlen ≤ 260 →
    exec .getKey s = .next t → exec .getKey s' = .next t' →
    (t.res0 = t'.res0 ↔
      s.totlen = s'.totlen ∧ pktAt s (s.totlen - 1) = pktAt s' (s'.totlen - 1))

/-! ## Outcomes -/

/-- Every well-formed operation ends with one of the outcomes that R280 lists for it (NEW with OK alone, R291). For a
wire variant the list is that of its constructor in DECODE, the model's choice (log 12). -/
def Obligations.OutcomesOfOperations : Prop :=
  ∀ (i : Instr) (s t : State), i.WellFormed → exec i s = .next t → t.code ∈ possibleCodes i

/-- R281: a failing outcome leaves every piece of state but STATUS as it was, but for PacketIncomplete, which also writes
RES0, and for DECODE's failures (and those of the wire variants, which are its constructors), which leave no packet and
RES0 = 0. -/
def Obligations.FailuresArePrecise : Prop :=
  ∀ (i : Instr) (s t : State), exec i s = .next t →
    (t.code.failing = true → t.code ≠ .packetIncomplete →
      i ∉ [Instr.decode, .initrq, .initrs, .rbrq, .rbrs, .rarq, .rars, .warq, .wars] →
      t = { s with code := t.code, busy := false, pending := none }) ∧
    (t.code = .packetIncomplete →
      t = { s with res0 := t.res0, code := .packetIncomplete, busy := false, pending := none }) ∧
    (i ∈ [Instr.decode, .initrq, .initrs, .rbrq, .rbrs, .rarq, .rars, .warq, .wars] → t.code ≠ .ok →
      t = { s with
        variant := none, totlen := 0, flags := 0x00#6, res0 := 0#32, code := t.code, busy := false,
        pending := none })

/-! ## Building and parsing -/

/-- NEW starts a packet under construction (R160), and every setter keeps it one, whether it succeeds or fails
(R177). -/
def Obligations.NewAndSettersKeepBuild : Prop :=
  (∀ (s t : State) (var : BitVec 4) (v : Variant),
    v.code = var.toNat → exec (.new var) s = .next t → t.Built v) ∧
  ∀ (i : Instr) (f : Field) (s t : State) (v : Variant),
    setterField i = some f → s.Built v → operandRaMax s ≤ 84 → exec i s = .next t → t.Built v

/-- Soundness of building (R177): once FINISH ends OK on a packet under construction, CHECK passes it exactly when its
destination differs from its source. -/
def Obligations.FinishedBuildPassesCheck : Prop :=
  ∀ (s t u : State) (v : Variant),
    s.Built v → exec .finish s = .next t → t.code = .ok → exec .check t = .next u →
    (u.result = true ↔ pktAt s 1 ≠ pktAt s 2)

/-- Round trip (R178): under every CMD_TABLE that R105 admits, DECODE of a packet that CHECK passes, with BUFLEN its total
length, gives the same variant, total length and bytes, every flag set, and CHECK passes it again. -/
def Obligations.DecodeOfEncodedPacket : Prop :=
  ∀ (s t : State) (v : Variant),
    s.cmdTable.Legal → s.variant = some v → exec .check s = .next t → t.result = true →
    t.buflen = t.totlen → s.totlen ≤ 260 →
    ∃ u w, exec .decode t = .next u ∧ u.code = .ok ∧ u.variant = some v ∧ u.totlen = s.totlen ∧
      (∀ j, pktAt u j = pktAt s j) ∧ u.flags = 0x3F#6 ∧ exec .check u = .next w ∧ w.result = true
end

