-- ==== Sys2Proof/Laws/State.lean ====
section
/-! SUPPORT. One lemma per field of State for each update that the operations make, so that no proof unfolds a record
update. -/

namespace Sys2Proof.Machine

/-! ### The end of an operation -/

@[simp] theorem complete_pkt (c : Code) (s : State) : (complete c s).pkt = s.pkt := rfl
@[simp] theorem complete_stg (c : Code) (s : State) : (complete c s).stg = s.stg := rfl
@[simp] theorem complete_totlen (c : Code) (s : State) : (complete c s).totlen = s.totlen := rfl
@[simp] theorem complete_variant (c : Code) (s : State) : (complete c s).variant = s.variant := rfl
@[simp] theorem complete_flags (c : Code) (s : State) : (complete c s).flags = s.flags := rfl
@[simp] theorem complete_buflen (c : Code) (s : State) : (complete c s).buflen = s.buflen := rfl
@[simp] theorem complete_raMax (c : Code) (s : State) : (complete c s).raMax = s.raMax := rfl
@[simp] theorem complete_arg0 (c : Code) (s : State) : (complete c s).arg0 = s.arg0 := rfl
@[simp] theorem complete_arg1 (c : Code) (s : State) : (complete c s).arg1 = s.arg1 := rfl
@[simp] theorem complete_res0 (c : Code) (s : State) : (complete c s).res0 = s.res0 := rfl
@[simp] theorem complete_acc (c : Code) (s : State) : (complete c s).acc = s.acc := rfl
@[simp] theorem complete_busy (c : Code) (s : State) : (complete c s).busy = false := rfl
@[simp] theorem complete_ovr (c : Code) (s : State) : (complete c s).ovr = s.ovr := rfl
@[simp] theorem complete_result (c : Code) (s : State) : (complete c s).result = s.result := rfl
@[simp] theorem complete_code (c : Code) (s : State) : (complete c s).code = c := rfl
@[simp] theorem complete_pending (c : Code) (s : State) : (complete c s).pending = none := rfl
@[simp] theorem complete_latency (c : Code) (s : State) : (complete c s).latency = s.latency := rfl
@[simp] theorem complete_draws (c : Code) (s : State) : (complete c s).draws = s.draws := rfl
@[simp] theorem complete_epoch (c : Code) (s : State) : (complete c s).epoch = s.epoch := rfl
@[simp] theorem complete_host (c : Code) (s : State) : (complete c s).host = s.host := rfl
@[simp] theorem complete_rdata (c : Code) (s : State) : (complete c s).rdata = s.rdata := rfl
@[simp] theorem complete_cmdTable (c : Code) (s : State) : (complete c s).cmdTable = s.cmdTable := rfl

@[simp] theorem raise_eq_complete (c : Code) (s : State) : raise c s = complete c s := rfl

/-! ### The "no packet" state -/

@[simp] theorem unload_pkt (s : State) : (unload s).pkt = s.pkt := rfl
@[simp] theorem unload_stg (s : State) : (unload s).stg = s.stg := rfl
@[simp] theorem unload_totlen (s : State) : (unload s).totlen = 0 := rfl
@[simp] theorem unload_variant (s : State) : (unload s).variant = none := rfl
@[simp] theorem unload_flags (s : State) : (unload s).flags = 0x00#6 := rfl
@[simp] theorem unload_buflen (s : State) : (unload s).buflen = s.buflen := rfl
@[simp] theorem unload_raMax (s : State) : (unload s).raMax = s.raMax := rfl
@[simp] theorem unload_arg0 (s : State) : (unload s).arg0 = s.arg0 := rfl
@[simp] theorem unload_arg1 (s : State) : (unload s).arg1 = s.arg1 := rfl
@[simp] theorem unload_res0 (s : State) : (unload s).res0 = s.res0 := rfl
@[simp] theorem unload_acc (s : State) : (unload s).acc = s.acc := rfl
@[simp] theorem unload_busy (s : State) : (unload s).busy = s.busy := rfl
@[simp] theorem unload_ovr (s : State) : (unload s).ovr = s.ovr := rfl
@[simp] theorem unload_result (s : State) : (unload s).result = s.result := rfl
@[simp] theorem unload_code (s : State) : (unload s).code = s.code := rfl
@[simp] theorem unload_pending (s : State) : (unload s).pending = s.pending := rfl
@[simp] theorem unload_latency (s : State) : (unload s).latency = s.latency := rfl
@[simp] theorem unload_draws (s : State) : (unload s).draws = s.draws := rfl
@[simp] theorem unload_epoch (s : State) : (unload s).epoch = s.epoch := rfl
@[simp] theorem unload_host (s : State) : (unload s).host = s.host := rfl
@[simp] theorem unload_rdata (s : State) : (unload s).rdata = s.rdata := rfl
@[simp] theorem unload_cmdTable (s : State) : (unload s).cmdTable = s.cmdTable := rfl

/-! ### The accumulator -/

@[simp] theorem accumulate_pkt (n : Nat) (s : State) : (accumulate n s).pkt = s.pkt := rfl
@[simp] theorem accumulate_stg (n : Nat) (s : State) : (accumulate n s).stg = s.stg := rfl
@[simp] theorem accumulate_totlen (n : Nat) (s : State) : (accumulate n s).totlen = s.totlen := rfl
@[simp] theorem accumulate_variant (n : Nat) (s : State) : (accumulate n s).variant = s.variant := rfl
@[simp] theorem accumulate_flags (n : Nat) (s : State) : (accumulate n s).flags = s.flags := rfl
@[simp] theorem accumulate_buflen (n : Nat) (s : State) : (accumulate n s).buflen = s.buflen := rfl
@[simp] theorem accumulate_raMax (n : Nat) (s : State) : (accumulate n s).raMax = s.raMax := rfl
@[simp] theorem accumulate_arg0 (n : Nat) (s : State) : (accumulate n s).arg0 = s.arg0 := rfl
@[simp] theorem accumulate_arg1 (n : Nat) (s : State) : (accumulate n s).arg1 = s.arg1 := rfl
@[simp] theorem accumulate_res0 (n : Nat) (s : State) : (accumulate n s).res0 = s.res0 := rfl
@[simp] theorem accumulate_acc (n : Nat) (s : State) : (accumulate n s).acc = accLoop s (n - 1) := rfl
@[simp] theorem accumulate_busy (n : Nat) (s : State) : (accumulate n s).busy = s.busy := rfl
@[simp] theorem accumulate_ovr (n : Nat) (s : State) : (accumulate n s).ovr = s.ovr := rfl
@[simp] theorem accumulate_result (n : Nat) (s : State) : (accumulate n s).result = s.result := rfl
@[simp] theorem accumulate_code (n : Nat) (s : State) : (accumulate n s).code = s.code := rfl
@[simp] theorem accumulate_pending (n : Nat) (s : State) : (accumulate n s).pending = s.pending := rfl
@[simp] theorem accumulate_latency (n : Nat) (s : State) : (accumulate n s).latency = s.latency := rfl
@[simp] theorem accumulate_draws (n : Nat) (s : State) : (accumulate n s).draws = s.draws := rfl
@[simp] theorem accumulate_epoch (n : Nat) (s : State) : (accumulate n s).epoch = s.epoch := rfl
@[simp] theorem accumulate_host (n : Nat) (s : State) : (accumulate n s).host = s.host := rfl
@[simp] theorem accumulate_rdata (n : Nat) (s : State) : (accumulate n s).rdata = s.rdata := rfl
@[simp] theorem accumulate_cmdTable (n : Nat) (s : State) : (accumulate n s).cmdTable = s.cmdTable := rfl

/-! ### One byte of PKT -/

@[simp] theorem setPkt_stg (i : Nat) (b : Byte) (s : State) : (setPkt i b s).stg = s.stg := rfl
@[simp] theorem setPkt_totlen (i : Nat) (b : Byte) (s : State) : (setPkt i b s).totlen = s.totlen := rfl
@[simp] theorem setPkt_variant (i : Nat) (b : Byte) (s : State) : (setPkt i b s).variant = s.variant := rfl
@[simp] theorem setPkt_flags (i : Nat) (b : Byte) (s : State) : (setPkt i b s).flags = s.flags := rfl
@[simp] theorem setPkt_buflen (i : Nat) (b : Byte) (s : State) : (setPkt i b s).buflen = s.buflen := rfl
@[simp] theorem setPkt_raMax (i : Nat) (b : Byte) (s : State) : (setPkt i b s).raMax = s.raMax := rfl
@[simp] theorem setPkt_arg0 (i : Nat) (b : Byte) (s : State) : (setPkt i b s).arg0 = s.arg0 := rfl
@[simp] theorem setPkt_arg1 (i : Nat) (b : Byte) (s : State) : (setPkt i b s).arg1 = s.arg1 := rfl
@[simp] theorem setPkt_res0 (i : Nat) (b : Byte) (s : State) : (setPkt i b s).res0 = s.res0 := rfl
@[simp] theorem setPkt_acc (i : Nat) (b : Byte) (s : State) : (setPkt i b s).acc = s.acc := rfl
@[simp] theorem setPkt_busy (i : Nat) (b : Byte) (s : State) : (setPkt i b s).busy = s.busy := rfl
@[simp] theorem setPkt_ovr (i : Nat) (b : Byte) (s : State) : (setPkt i b s).ovr = s.ovr := rfl
@[simp] theorem setPkt_result (i : Nat) (b : Byte) (s : State) : (setPkt i b s).result = s.result := rfl
@[simp] theorem setPkt_code (i : Nat) (b : Byte) (s : State) : (setPkt i b s).code = s.code := rfl
@[simp] theorem setPkt_pending (i : Nat) (b : Byte) (s : State) : (setPkt i b s).pending = s.pending := rfl
@[simp] theorem setPkt_latency (i : Nat) (b : Byte) (s : State) : (setPkt i b s).latency = s.latency := rfl
@[simp] theorem setPkt_draws (i : Nat) (b : Byte) (s : State) : (setPkt i b s).draws = s.draws := rfl
@[simp] theorem setPkt_epoch (i : Nat) (b : Byte) (s : State) : (setPkt i b s).epoch = s.epoch := rfl
@[simp] theorem setPkt_host (i : Nat) (b : Byte) (s : State) : (setPkt i b s).host = s.host := rfl
@[simp] theorem setPkt_rdata (i : Nat) (b : Byte) (s : State) : (setPkt i b s).rdata = s.rdata := rfl
@[simp] theorem setPkt_cmdTable (i : Nat) (b : Byte) (s : State) : (setPkt i b s).cmdTable = s.cmdTable := rfl

/-! ### One byte of STG -/

@[simp] theorem setStg_pkt (i : Nat) (b : Byte) (s : State) : (setStg i b s).pkt = s.pkt := rfl
@[simp] theorem setStg_totlen (i : Nat) (b : Byte) (s : State) : (setStg i b s).totlen = s.totlen := rfl
@[simp] theorem setStg_variant (i : Nat) (b : Byte) (s : State) : (setStg i b s).variant = s.variant := rfl
@[simp] theorem setStg_flags (i : Nat) (b : Byte) (s : State) : (setStg i b s).flags = s.flags := rfl
@[simp] theorem setStg_buflen (i : Nat) (b : Byte) (s : State) : (setStg i b s).buflen = s.buflen := rfl
@[simp] theorem setStg_raMax (i : Nat) (b : Byte) (s : State) : (setStg i b s).raMax = s.raMax := rfl
@[simp] theorem setStg_arg0 (i : Nat) (b : Byte) (s : State) : (setStg i b s).arg0 = s.arg0 := rfl
@[simp] theorem setStg_arg1 (i : Nat) (b : Byte) (s : State) : (setStg i b s).arg1 = s.arg1 := rfl
@[simp] theorem setStg_res0 (i : Nat) (b : Byte) (s : State) : (setStg i b s).res0 = s.res0 := rfl
@[simp] theorem setStg_acc (i : Nat) (b : Byte) (s : State) : (setStg i b s).acc = s.acc := rfl
@[simp] theorem setStg_busy (i : Nat) (b : Byte) (s : State) : (setStg i b s).busy = s.busy := rfl
@[simp] theorem setStg_ovr (i : Nat) (b : Byte) (s : State) : (setStg i b s).ovr = s.ovr := rfl
@[simp] theorem setStg_result (i : Nat) (b : Byte) (s : State) : (setStg i b s).result = s.result := rfl
@[simp] theorem setStg_code (i : Nat) (b : Byte) (s : State) : (setStg i b s).code = s.code := rfl
@[simp] theorem setStg_pending (i : Nat) (b : Byte) (s : State) : (setStg i b s).pending = s.pending := rfl
@[simp] theorem setStg_latency (i : Nat) (b : Byte) (s : State) : (setStg i b s).latency = s.latency := rfl
@[simp] theorem setStg_draws (i : Nat) (b : Byte) (s : State) : (setStg i b s).draws = s.draws := rfl
@[simp] theorem setStg_epoch (i : Nat) (b : Byte) (s : State) : (setStg i b s).epoch = s.epoch := rfl
@[simp] theorem setStg_host (i : Nat) (b : Byte) (s : State) : (setStg i b s).host = s.host := rfl
@[simp] theorem setStg_rdata (i : Nat) (b : Byte) (s : State) : (setStg i b s).rdata = s.rdata := rfl
@[simp] theorem setStg_cmdTable (i : Nat) (b : Byte) (s : State) : (setStg i b s).cmdTable = s.cmdTable := rfl

/-! ### Several bytes of PKT -/

@[simp] theorem storePkt_stg (off : Nat) (bs : List Byte) (s : State) : (storePkt off bs s).stg = s.stg := rfl
@[simp] theorem storePkt_totlen (off : Nat) (bs : List Byte) (s : State) :
    (storePkt off bs s).totlen = s.totlen := rfl
@[simp] theorem storePkt_variant (off : Nat) (bs : List Byte) (s : State) :
    (storePkt off bs s).variant = s.variant := rfl
@[simp] theorem storePkt_flags (off : Nat) (bs : List Byte) (s : State) : (storePkt off bs s).flags = s.flags := rfl
@[simp] theorem storePkt_buflen (off : Nat) (bs : List Byte) (s : State) :
    (storePkt off bs s).buflen = s.buflen := rfl
@[simp] theorem storePkt_raMax (off : Nat) (bs : List Byte) (s : State) : (storePkt off bs s).raMax = s.raMax := rfl
@[simp] theorem storePkt_arg0 (off : Nat) (bs : List Byte) (s : State) : (storePkt off bs s).arg0 = s.arg0 := rfl
@[simp] theorem storePkt_arg1 (off : Nat) (bs : List Byte) (s : State) : (storePkt off bs s).arg1 = s.arg1 := rfl
@[simp] theorem storePkt_res0 (off : Nat) (bs : List Byte) (s : State) : (storePkt off bs s).res0 = s.res0 := rfl
@[simp] theorem storePkt_acc (off : Nat) (bs : List Byte) (s : State) : (storePkt off bs s).acc = s.acc := rfl
@[simp] theorem storePkt_busy (off : Nat) (bs : List Byte) (s : State) : (storePkt off bs s).busy = s.busy := rfl
@[simp] theorem storePkt_ovr (off : Nat) (bs : List Byte) (s : State) : (storePkt off bs s).ovr = s.ovr := rfl
@[simp] theorem storePkt_result (off : Nat) (bs : List Byte) (s : State) :
    (storePkt off bs s).result = s.result := rfl
@[simp] theorem storePkt_code (off : Nat) (bs : List Byte) (s : State) : (storePkt off bs s).code = s.code := rfl
@[simp] theorem storePkt_pending (off : Nat) (bs : List Byte) (s : State) :
    (storePkt off bs s).pending = s.pending := rfl
@[simp] theorem storePkt_latency (off : Nat) (bs : List Byte) (s : State) :
    (storePkt off bs s).latency = s.latency := rfl
@[simp] theorem storePkt_draws (off : Nat) (bs : List Byte) (s : State) : (storePkt off bs s).draws = s.draws := rfl
@[simp] theorem storePkt_epoch (off : Nat) (bs : List Byte) (s : State) : (storePkt off bs s).epoch = s.epoch := rfl
@[simp] theorem storePkt_host (off : Nat) (bs : List Byte) (s : State) : (storePkt off bs s).host = s.host := rfl
@[simp] theorem storePkt_rdata (off : Nat) (bs : List Byte) (s : State) : (storePkt off bs s).rdata = s.rdata := rfl
@[simp] theorem storePkt_cmdTable (off : Nat) (bs : List Byte) (s : State) : (storePkt off bs s).cmdTable = s.cmdTable := rfl

/-! ### Zero fill -/

@[simp] theorem zeroPkt_stg (off k : Nat) (s : State) : (zeroPkt off k s).stg = s.stg := rfl
@[simp] theorem zeroPkt_totlen (off k : Nat) (s : State) : (zeroPkt off k s).totlen = s.totlen := rfl
@[simp] theorem zeroPkt_variant (off k : Nat) (s : State) : (zeroPkt off k s).variant = s.variant := rfl
@[simp] theorem zeroPkt_flags (off k : Nat) (s : State) : (zeroPkt off k s).flags = s.flags := rfl
@[simp] theorem zeroPkt_buflen (off k : Nat) (s : State) : (zeroPkt off k s).buflen = s.buflen := rfl
@[simp] theorem zeroPkt_raMax (off k : Nat) (s : State) : (zeroPkt off k s).raMax = s.raMax := rfl
@[simp] theorem zeroPkt_arg0 (off k : Nat) (s : State) : (zeroPkt off k s).arg0 = s.arg0 := rfl
@[simp] theorem zeroPkt_arg1 (off k : Nat) (s : State) : (zeroPkt off k s).arg1 = s.arg1 := rfl
@[simp] theorem zeroPkt_res0 (off k : Nat) (s : State) : (zeroPkt off k s).res0 = s.res0 := rfl
@[simp] theorem zeroPkt_acc (off k : Nat) (s : State) : (zeroPkt off k s).acc = s.acc := rfl
@[simp] theorem zeroPkt_busy (off k : Nat) (s : State) : (zeroPkt off k s).busy = s.busy := rfl
@[simp] theorem zeroPkt_ovr (off k : Nat) (s : State) : (zeroPkt off k s).ovr = s.ovr := rfl
@[simp] theorem zeroPkt_result (off k : Nat) (s : State) : (zeroPkt off k s).result = s.result := rfl
@[simp] theorem zeroPkt_code (off k : Nat) (s : State) : (zeroPkt off k s).code = s.code := rfl
@[simp] theorem zeroPkt_pending (off k : Nat) (s : State) : (zeroPkt off k s).pending = s.pending := rfl
@[simp] theorem zeroPkt_latency (off k : Nat) (s : State) : (zeroPkt off k s).latency = s.latency := rfl
@[simp] theorem zeroPkt_draws (off k : Nat) (s : State) : (zeroPkt off k s).draws = s.draws := rfl
@[simp] theorem zeroPkt_epoch (off k : Nat) (s : State) : (zeroPkt off k s).epoch = s.epoch := rfl
@[simp] theorem zeroPkt_host (off k : Nat) (s : State) : (zeroPkt off k s).host = s.host := rfl
@[simp] theorem zeroPkt_rdata (off k : Nat) (s : State) : (zeroPkt off k s).rdata = s.rdata := rfl
@[simp] theorem zeroPkt_cmdTable (off k : Nat) (s : State) : (zeroPkt off k s).cmdTable = s.cmdTable := rfl

/-! ### Acceptance -/

@[simp] theorem accept_pkt (i : Instr) (w : Word) (s : State) : (accept i w s).pkt = s.pkt := rfl
@[simp] theorem accept_stg (i : Instr) (w : Word) (s : State) : (accept i w s).stg = s.stg := rfl
@[simp] theorem accept_totlen (i : Instr) (w : Word) (s : State) : (accept i w s).totlen = s.totlen := rfl
@[simp] theorem accept_variant (i : Instr) (w : Word) (s : State) : (accept i w s).variant = s.variant := rfl
@[simp] theorem accept_flags (i : Instr) (w : Word) (s : State) : (accept i w s).flags = s.flags := rfl
@[simp] theorem accept_buflen (i : Instr) (w : Word) (s : State) : (accept i w s).buflen = s.buflen := rfl
@[simp] theorem accept_raMax (i : Instr) (w : Word) (s : State) : (accept i w s).raMax = s.raMax := rfl
@[simp] theorem accept_arg0 (i : Instr) (w : Word) (s : State) : (accept i w s).arg0 = s.arg0 := rfl
@[simp] theorem accept_arg1 (i : Instr) (w : Word) (s : State) : (accept i w s).arg1 = s.arg1 := rfl
@[simp] theorem accept_res0 (i : Instr) (w : Word) (s : State) : (accept i w s).res0 = s.res0 := rfl
@[simp] theorem accept_acc (i : Instr) (w : Word) (s : State) : (accept i w s).acc = s.acc := rfl
@[simp] theorem accept_busy (i : Instr) (w : Word) (s : State) : (accept i w s).busy = true := rfl
@[simp] theorem accept_ovr (i : Instr) (w : Word) (s : State) : (accept i w s).ovr = false := rfl
@[simp] theorem accept_result (i : Instr) (w : Word) (s : State) : (accept i w s).result = s.result := rfl
@[simp] theorem accept_code (i : Instr) (w : Word) (s : State) : (accept i w s).code = s.code := rfl
@[simp] theorem accept_pending (i : Instr) (w : Word) (s : State) :
    (accept i w s).pending = some ⟨i, s.arg0, s.arg1, s.buflen, s.raMax⟩ := rfl
@[simp] theorem accept_latency (i : Instr) (w : Word) (s : State) :
    (accept i w s).latency = Config.opLatency w s.totlen s.arg0 s.draws := rfl
@[simp] theorem accept_draws (i : Instr) (w : Word) (s : State) : (accept i w s).draws = s.draws + 1 := rfl
@[simp] theorem accept_epoch (i : Instr) (w : Word) (s : State) : (accept i w s).epoch = s.epoch := rfl
@[simp] theorem accept_host (i : Instr) (w : Word) (s : State) : (accept i w s).host = s.host := rfl
@[simp] theorem accept_rdata (i : Instr) (w : Word) (s : State) : (accept i w s).rdata = s.rdata := rfl
@[simp] theorem accept_cmdTable (i : Instr) (w : Word) (s : State) : (accept i w s).cmdTable = s.cmdTable := rfl

/-! ### A step of the operation in flight -/

@[simp] theorem elapse_pkt (s : State) : (elapse s).pkt = s.pkt := rfl
@[simp] theorem elapse_stg (s : State) : (elapse s).stg = s.stg := rfl
@[simp] theorem elapse_totlen (s : State) : (elapse s).totlen = s.totlen := rfl
@[simp] theorem elapse_variant (s : State) : (elapse s).variant = s.variant := rfl
@[simp] theorem elapse_flags (s : State) : (elapse s).flags = s.flags := rfl
@[simp] theorem elapse_buflen (s : State) : (elapse s).buflen = s.buflen := rfl
@[simp] theorem elapse_raMax (s : State) : (elapse s).raMax = s.raMax := rfl
@[simp] theorem elapse_arg0 (s : State) : (elapse s).arg0 = s.arg0 := rfl
@[simp] theorem elapse_arg1 (s : State) : (elapse s).arg1 = s.arg1 := rfl
@[simp] theorem elapse_res0 (s : State) : (elapse s).res0 = s.res0 := rfl
@[simp] theorem elapse_acc (s : State) : (elapse s).acc = s.acc := rfl
@[simp] theorem elapse_busy (s : State) : (elapse s).busy = s.busy := rfl
@[simp] theorem elapse_ovr (s : State) : (elapse s).ovr = s.ovr := rfl
@[simp] theorem elapse_result (s : State) : (elapse s).result = s.result := rfl
@[simp] theorem elapse_code (s : State) : (elapse s).code = s.code := rfl
@[simp] theorem elapse_pending (s : State) : (elapse s).pending = s.pending := rfl
@[simp] theorem elapse_latency (s : State) : (elapse s).latency = s.latency - 1 := rfl
@[simp] theorem elapse_draws (s : State) : (elapse s).draws = s.draws := rfl
@[simp] theorem elapse_epoch (s : State) : (elapse s).epoch = s.epoch := rfl
@[simp] theorem elapse_host (s : State) : (elapse s).host = s.host := rfl
@[simp] theorem elapse_rdata (s : State) : (elapse s).rdata = s.rdata := rfl
@[simp] theorem elapse_cmdTable (s : State) : (elapse s).cmdTable = s.cmdTable := rfl

/-! ### Reset by the platform -/

@[simp] theorem platformReset_pkt (s : State) : (platformReset s).pkt = State.reset.pkt := rfl
@[simp] theorem platformReset_stg (s : State) : (platformReset s).stg = State.reset.stg := rfl
@[simp] theorem platformReset_totlen (s : State) : (platformReset s).totlen = State.reset.totlen := rfl
@[simp] theorem platformReset_variant (s : State) : (platformReset s).variant = State.reset.variant := rfl
@[simp] theorem platformReset_flags (s : State) : (platformReset s).flags = State.reset.flags := rfl
@[simp] theorem platformReset_buflen (s : State) : (platformReset s).buflen = State.reset.buflen := rfl
@[simp] theorem platformReset_raMax (s : State) : (platformReset s).raMax = State.reset.raMax := rfl
@[simp] theorem platformReset_arg0 (s : State) : (platformReset s).arg0 = State.reset.arg0 := rfl
@[simp] theorem platformReset_arg1 (s : State) : (platformReset s).arg1 = State.reset.arg1 := rfl
@[simp] theorem platformReset_res0 (s : State) : (platformReset s).res0 = State.reset.res0 := rfl
@[simp] theorem platformReset_acc (s : State) : (platformReset s).acc = State.reset.acc := rfl
@[simp] theorem platformReset_busy (s : State) : (platformReset s).busy = State.reset.busy := rfl
@[simp] theorem platformReset_ovr (s : State) : (platformReset s).ovr = State.reset.ovr := rfl
@[simp] theorem platformReset_result (s : State) : (platformReset s).result = State.reset.result := rfl
@[simp] theorem platformReset_code (s : State) : (platformReset s).code = State.reset.code := rfl
@[simp] theorem platformReset_pending (s : State) : (platformReset s).pending = State.reset.pending := rfl
@[simp] theorem platformReset_latency (s : State) : (platformReset s).latency = State.reset.latency := rfl
@[simp] theorem platformReset_draws (s : State) : (platformReset s).draws = s.draws := rfl
@[simp] theorem platformReset_epoch (s : State) : (platformReset s).epoch = s.epoch + 1 := rfl
@[simp] theorem platformReset_host (s : State) : (platformReset s).host = s.host := rfl
@[simp] theorem platformReset_rdata (s : State) : (platformReset s).rdata = s.rdata := rfl
@[simp] theorem platformReset_cmdTable (s : State) : (platformReset s).cmdTable = s.cmdTable := rfl

end Sys2Proof.Machine
end

