-- ==== Sys2Proof/Laws/Memory.lean ====
section
/-! SUPPORT. The laws of the two buffers: what a byte reads as after each operation, and that every operation keeps the
canonical form. -/

namespace Sys2Proof.Machine

/-! ### A buffer -/

/-- Read after write. -/
theorem readCell_writeCell (m : Memory) (a c : Nat) (b : Byte) :
    readCell (writeCell m a b) c = if c = a then some b else readCell m c := by
  induction m with
  | nil => by_cases hc : c = a <;> simp [writeCell, readCell, hc]
  | cons x m ih =>
    obtain ⟨k, v⟩ := x
    by_cases hc : c = a
    · subst hc
      simp only [writeCell]
      split
      · simp [readCell]
      · split <;> simp_all [readCell]
    · simp only [writeCell]
      split
      · simp [readCell, hc]
      · split <;> simp_all [readCell, eq_comm]

/-- Every entry after a write is the written one or was there. -/
theorem mem_writeCell {m : Memory} {a : Nat} {b : Byte} {x : Nat × Byte} (h : x ∈ writeCell m a b) :
    x = (a, b) ∨ x ∈ m := by
  induction m with
  | nil => simpa [writeCell] using h
  | cons y m ih =>
    obtain ⟨k, v⟩ := y
    unfold writeCell at h
    split at h
    · simpa using h
    · split at h
      · rcases List.mem_cons.mp h with h | h
        · exact .inl h
        · exact .inr (List.mem_cons_of_mem _ h)
      · rcases List.mem_cons.mp h with h | h
        · exact .inr (h ▸ List.mem_cons_self)
        · exact (ih h).imp id (List.mem_cons_of_mem _)

/-- A write below the capacity keeps the canonical form. -/
theorem writeCell_wf {cap : Nat} {m : Memory} {a : Nat} (b : Byte) (ha : a < cap) (h : m.wf cap) :
    (writeCell m a b).wf cap := by
  refine ⟨?_, fun x hx => (mem_writeCell hx).elim (fun e => e ▸ ha) (h.2 x)⟩
  have hp := h.1
  clear h
  induction m with
  | nil => simp [writeCell]
  | cons y m ih =>
    obtain ⟨k, v⟩ := y
    have hm := List.pairwise_cons.mp hp
    unfold writeCell
    split
    · next h1 =>
      refine List.pairwise_cons.mpr ⟨fun z hz => ?_, hp⟩
      rcases List.mem_cons.mp hz with rfl | hz
      · exact h1
      · exact Nat.lt_trans h1 (hm.1 z hz)
    · split
      · next h1 h2 => exact List.pairwise_cons.mpr ⟨fun z hz => h2 ▸ hm.1 z hz, hm.2⟩
      · next h1 h2 =>
        refine List.pairwise_cons.mpr ⟨fun z hz => ?_, ih hm.2⟩
        rcases mem_writeCell hz with rfl | hz
        · show k < a; omega
        · exact hm.1 z hz

/-- A write to a buffer of `cap` bytes keeps the canonical form. -/
theorem writeBelow_wf {cap : Nat} {m : Memory} (h : m.wf cap) (i : Nat) (b : Byte) : (writeBelow cap i b m).wf cap := by
  unfold writeBelow
  split
  · next hi => exact writeCell_wf b hi h
  · exact h

/-- A run of writes keeps the canonical form. -/
theorem writeBytes_wf {cap : Nat} {m : Memory} (h : m.wf cap) (off : Nat) (bs : List Byte) :
    (writeBytes cap off bs m).wf cap := by
  induction bs generalizing off with
  | nil => exact h
  | cons b bs ih => exact writeBelow_wf (ih (off + 1)) off b

/-- Read after a write to a buffer of `cap` bytes. -/
theorem readCell_writeBelow (cap i : Nat) (b : Byte) (m : Memory) (j : Nat) :
    readCell (writeBelow cap i b m) j = if j = i ∧ i < cap then some b else readCell m j := by
  by_cases hi : i < cap <;> simp [writeBelow, hi, readCell_writeCell]

/-- Read after a run of writes. -/
theorem readCell_writeBytes (cap off : Nat) (bs : List Byte) (m : Memory) (j : Nat) :
    readCell (writeBytes cap off bs m) j =
      if off ≤ j ∧ j < off + bs.length ∧ j < cap then some (bs.getD (j - off) 0x00#8) else readCell m j := by
  induction bs generalizing off with
  | nil => simp [writeBytes]; omega
  | cons b bs ih =>
    rw [writeBytes, readCell_writeBelow, ih]
    by_cases hj : j = off
    · subst hj
      by_cases hj' : j < cap <;> simp [hj']
    · by_cases h1 : off + 1 ≤ j
      · have e : j - off = (j - (off + 1)) + 1 := by omega
        have e' : off + 1 + bs.length = off + (bs.length + 1) := by omega
        simp [hj, h1, e, e', show off ≤ j by omega]
      · simp [hj, h1, show ¬ off ≤ j by omega]

/-! ### Bytes of PKT and STG -/

/-- PKT is read through its list and the epoch alone. -/
theorem pktAt_congr {s t : State} (hp : t.pkt = s.pkt) (he : t.epoch = s.epoch) (i : Nat) :
    pktAt t i = pktAt s i := by simp [pktAt, hp, he]

/-- STG is read through its list and the epoch alone. -/
theorem stgAt_congr {s t : State} (hp : t.stg = s.stg) (he : t.epoch = s.epoch) (i : Nat) :
    stgAt t i = stgAt s i := by simp [stgAt, hp, he]

@[simp] theorem pktAt_complete (c : Code) (s : State) (i : Nat) : pktAt (complete c s) i = pktAt s i := rfl

@[simp] theorem pktAt_unload (s : State) (i : Nat) : pktAt (unload s) i = pktAt s i := rfl

@[simp] theorem pktAt_accumulate (n : Nat) (s : State) (i : Nat) : pktAt (accumulate n s) i = pktAt s i := rfl

@[simp] theorem stgAt_setPkt (i : Nat) (b : Byte) (s : State) (j : Nat) : stgAt (setPkt i b s) j = stgAt s j :=
  stgAt_congr (by simp) (by simp) j

@[simp] theorem pktAt_setStg (i : Nat) (b : Byte) (s : State) (j : Nat) : pktAt (setStg i b s) j = pktAt s j :=
  pktAt_congr (by simp) (by simp) j

@[simp] theorem stgAt_storePkt (off : Nat) (bs : List Byte) (s : State) (j : Nat) :
    stgAt (storePkt off bs s) j = stgAt s j := stgAt_congr (by simp) (by simp) j

/-- What PKT reads as after one byte is set. -/
theorem pktAt_setPkt (s : State) (i : Nat) (b : Byte) (j : Nat) :
    pktAt (setPkt i b s) j = if j = i ∧ i < 260 then b else pktAt s j := by
  simp only [pktAt, setPkt, Config.maxTotal, readCell_writeBelow]
  split <;> simp

/-- What STG reads as after one byte is set. -/
theorem stgAt_setStg (s : State) (i : Nat) (b : Byte) (j : Nat) :
    stgAt (setStg i b s) j = if j = i ∧ i < 256 then b else stgAt s j := by
  simp only [stgAt, setStg, Config.stgCap, readCell_writeBelow]
  split <;> simp

/-! ### The canonical form is kept -/

theorem setPkt_wf {s : State} (h : s.pkt.wf 260) (i : Nat) (b : Byte) : (setPkt i b s).pkt.wf 260 :=
  writeBelow_wf h i b

theorem setStg_wf {s : State} (h : s.stg.wf 256) (i : Nat) (b : Byte) : (setStg i b s).stg.wf 256 :=
  writeBelow_wf h i b

theorem storePkt_wf {s : State} (h : s.pkt.wf 260) (off : Nat) (bs : List Byte) : (storePkt off bs s).pkt.wf 260 := by
  rw [storePkt, writeRun]; exact writeBytes_wf h off bs

theorem zeroPkt_wf {s : State} (h : s.pkt.wf 260) (off k : Nat) : (zeroPkt off k s).pkt.wf 260 :=
  storePkt_wf h off _

/-- The memory of the reset state has the form. -/
theorem reset_memory_wf : State.reset.pkt.wf 260 ∧ State.reset.stg.wf 256 := by
  simp [State.reset, Memory.wf]

/-! ### Several bytes of PKT -/

/-- What PKT reads as after a run of bytes is stored. -/
theorem pktAt_storePkt (s : State) (off : Nat) (bs : List Byte) (j : Nat) :
    pktAt (storePkt off bs s) j =
      if off ≤ j ∧ j < off + bs.length ∧ j < 260 then bs.getD (j - off) 0x00#8 else pktAt s j := by
  simp only [pktAt, storePkt, writeRun, Config.maxTotal, readCell_writeBytes]
  split <;> simp

/-- What PKT reads as after a zero fill. -/
theorem pktAt_zeroPkt (s : State) (off k j : Nat) :
    pktAt (zeroPkt off k s) j = if off ≤ j ∧ j < off + k ∧ j < 260 then 0x00#8 else pktAt s j := by
  rw [zeroPkt, pktAt_storePkt]
  split
  · next hc =>
    simp only [List.length_replicate] at hc
    simp [hc, List.getD, show j - off < k by omega]
  · next hc =>
    simp only [List.length_replicate] at hc
    simp [hc]

/-- The length of the bytes a bulk setter takes from STG. -/
@[simp] theorem stgBytes_length (s : State) (k : Nat) : (stgBytes s k).length = k := by simp [stgBytes]

/-- The bytes a bulk setter takes from STG. -/
theorem stgBytes_getD (s : State) {k j : Nat} (h : j < k) : (stgBytes s k).getD j 0x00#8 = stgAt s j := by
  simp [stgBytes, List.getD, h]

end Sys2Proof.Machine
end

