-- ==== Sys2Proof/Laws/Framer.lean ====
section
/-! SUPPORT. What each shared procedure of the framer and the bus can do, said once: the provers cite these instead of
unfolding the procedures. -/

namespace Sys2Proof.Machine

/-! ### commit -/

@[simp] theorem commit_stg (fl : Flag) (n off : Nat) (bs : List Byte) (s : State) :
    (commit fl n off bs s).stg = s.stg := rfl
@[simp] theorem commit_variant (fl : Flag) (n off : Nat) (bs : List Byte) (s : State) :
    (commit fl n off bs s).variant = s.variant := rfl
@[simp] theorem commit_buflen (fl : Flag) (n off : Nat) (bs : List Byte) (s : State) :
    (commit fl n off bs s).buflen = s.buflen := rfl
@[simp] theorem commit_raMax (fl : Flag) (n off : Nat) (bs : List Byte) (s : State) :
    (commit fl n off bs s).raMax = s.raMax := rfl
@[simp] theorem commit_arg0 (fl : Flag) (n off : Nat) (bs : List Byte) (s : State) :
    (commit fl n off bs s).arg0 = s.arg0 := rfl
@[simp] theorem commit_arg1 (fl : Flag) (n off : Nat) (bs : List Byte) (s : State) :
    (commit fl n off bs s).arg1 = s.arg1 := rfl
@[simp] theorem commit_res0 (fl : Flag) (n off : Nat) (bs : List Byte) (s : State) :
    (commit fl n off bs s).res0 = s.res0 := rfl
@[simp] theorem commit_acc (fl : Flag) (n off : Nat) (bs : List Byte) (s : State) :
    (commit fl n off bs s).acc = s.acc := rfl
@[simp] theorem commit_busy (fl : Flag) (n off : Nat) (bs : List Byte) (s : State) :
    (commit fl n off bs s).busy = s.busy := rfl
@[simp] theorem commit_ovr (fl : Flag) (n off : Nat) (bs : List Byte) (s : State) :
    (commit fl n off bs s).ovr = s.ovr := rfl
@[simp] theorem commit_result (fl : Flag) (n off : Nat) (bs : List Byte) (s : State) :
    (commit fl n off bs s).result = s.result := rfl
@[simp] theorem commit_code (fl : Flag) (n off : Nat) (bs : List Byte) (s : State) :
    (commit fl n off bs s).code = s.code := rfl
@[simp] theorem commit_pending (fl : Flag) (n off : Nat) (bs : List Byte) (s : State) :
    (commit fl n off bs s).pending = s.pending := rfl
@[simp] theorem commit_latency (fl : Flag) (n off : Nat) (bs : List Byte) (s : State) :
    (commit fl n off bs s).latency = s.latency := rfl
@[simp] theorem commit_draws (fl : Flag) (n off : Nat) (bs : List Byte) (s : State) :
    (commit fl n off bs s).draws = s.draws := rfl
@[simp] theorem commit_epoch (fl : Flag) (n off : Nat) (bs : List Byte) (s : State) :
    (commit fl n off bs s).epoch = s.epoch := rfl
@[simp] theorem commit_host (fl : Flag) (n off : Nat) (bs : List Byte) (s : State) :
    (commit fl n off bs s).host = s.host := rfl
@[simp] theorem commit_rdata (fl : Flag) (n off : Nat) (bs : List Byte) (s : State) :
    (commit fl n off bs s).rdata = s.rdata := rfl
@[simp] theorem commit_cmdTable (fl : Flag) (n off : Nat) (bs : List Byte) (s : State) :
    (commit fl n off bs s).cmdTable = s.cmdTable := rfl
@[simp] theorem commit_totlen (fl : Flag) (n off : Nat) (bs : List Byte) (s : State) :
    (commit fl n off bs s).totlen = n := rfl

/-- The bytes of PKT after commit: the field, the zero fill of a growing packet, everything else as it was. -/
theorem pktAt_commit (fl : Flag) (n off : Nat) (bs : List Byte) (s : State) (j : Nat) :
    pktAt (commit fl n off bs s) j =
      if off ≤ j ∧ j < off + bs.length ∧ j < 260 then bs.getD (j - off) 0x00#8
      else if s.totlen ≤ j ∧ j < n ∧ j < 260 then 0x00#8
      else pktAt s j := by
  have e : pktAt (commit fl n off bs s) j =
      pktAt (storePkt off bs { zeroPkt s.totlen (n - s.totlen) s with totlen := n }) j := rfl
  have e' : pktAt { zeroPkt s.totlen (n - s.totlen) s with totlen := n } j =
      pktAt (zeroPkt s.totlen (n - s.totlen) s) j := rfl
  have hz : (s.totlen ≤ j ∧ j < s.totlen + (n - s.totlen) ∧ j < 260) ↔ (s.totlen ≤ j ∧ j < n ∧ j < 260) := by
    omega
  rw [e, pktAt_storePkt, e', pktAt_zeroPkt]
  simp only [hz]

/-- `pktDiffers` says that some byte below `n` differs. -/
theorem pktDiffers_iff (n : Nat) (s t : State) :
    pktDiffers n s t = true ↔ ∃ j, j < n ∧ pktAt t j ≠ pktAt s j := by
  simp [pktDiffers]

/-- The flags after commit: the field's flag on, and CS off exactly when the length or a byte below it changed. -/
theorem commit_flags (fl : Flag) (n off : Nat) (bs : List Byte) (s : State) :
    (commit fl n off bs s).flags =
      if n != s.totlen || pktDiffers n s (commit fl n off bs s) then clearFlag .cs (setFlag fl s.flags)
      else setFlag fl s.flags := rfl

/-- commit keeps the canonical form of PKT. -/
theorem commit_wf {s : State} (h : s.pkt.wf 260) (fl : Flag) (n off : Nat) (bs : List Byte) :
    (commit fl n off bs s).pkt.wf 260 :=
  storePkt_wf (s := { zeroPkt s.totlen (n - s.totlen) s with totlen := n }) (zeroPkt_wf h _ _) off bs

/-! ### Setters, getters and the factory -/

/-- All a setter's procedure can do. -/
theorem runSetter_cases (f : Field) (empty bad : Bool) (s : State) (body : Slot → State) :
    (∃ c, c ≠ .ok ∧ runSetter f empty bad s body = complete c s) ∨
      ∃ v slot, s.variant = some v ∧ fieldSlot v f = some slot ∧ empty = false ∧ bad = false ∧
        slot.tooLong s.totlen = false ∧ runSetter f empty bad s body = complete .ok (body slot) := by
  unfold runSetter
  split
  · exact .inl ⟨.noPacket, by decide, rfl⟩
  · next v hv =>
    split
    · exact .inl ⟨.fieldNotApplicable, by decide, rfl⟩
    · next slot hs =>
      split
      · exact .inl ⟨.argumentInvalid, by decide, rfl⟩
      · split
        · exact .inl ⟨.valueOutOfRange, by decide, rfl⟩
        · split
          · exact .inl ⟨.bufferTooShort, by decide, rfl⟩
          · next h1 h2 h3 =>
            exact .inr ⟨v, slot, hv, hs, by simpa using h1, by simpa using h2, by simpa using h3, rfl⟩

/-- A setter runs its body when its tests pass. -/
theorem runSetter_ok {f : Field} {v : Variant} {slot : Slot} {s : State} (body : Slot → State)
    (hv : s.variant = some v) (hs : fieldSlot v f = some slot) (ht : slot.tooLong s.totlen = false) :
    runSetter f false false s body = complete .ok (body slot) := by
  simp [runSetter, hv, hs, ht]

/-- All a field getter can do. -/
theorem getField_cases (f : Field) (s : State) (value : Slot → Word) :
    (∃ c, c ≠ .ok ∧ getField f s value = complete c s) ∨
      ∃ v slot, s.variant = some v ∧ fieldSlot v f = some slot ∧ slot.tooLong s.totlen = false ∧
        getField f s value = complete .ok { s with res0 := value slot } := by
  unfold getField
  split
  · exact .inl ⟨.noPacket, by decide, rfl⟩
  · next v hv =>
    split
    · exact .inl ⟨.fieldNotApplicable, by decide, rfl⟩
    · next slot hs =>
      split
      · exact .inl ⟨.bufferTooShort, by decide, rfl⟩
      · next h => exact .inr ⟨v, slot, hv, hs, by simpa using h, rfl⟩

/-- A field getter answers its value when its tests pass. -/
theorem getField_ok {f : Field} {v : Variant} {slot : Slot} {s : State} (value : Slot → Word)
    (hv : s.variant = some v) (hs : fieldSlot v f = some slot) (ht : slot.tooLong s.totlen = false) :
    getField f s value = complete .ok { s with res0 := value slot } := by
  simp [getField, hv, hs, ht]

/-- All a header getter can do. -/
theorem getAlways_cases (value : Word) (s : State) :
    (s.variant = none ∧ getAlways value s = complete .noPacket s) ∨
      ∃ v, s.variant = some v ∧ getAlways value s = complete .ok { s with res0 := value } := by
  unfold getAlways
  split
  · next h => exact .inl ⟨h, rfl⟩
  · next v h => exact .inr ⟨v, h, rfl⟩

/-- All the constructor of the factory can do. -/
theorem loadPacket_cases (v : Variant) (s : State) :
    ((wireLength s < 6 ∨ operandBuflen s < wireLength s) ∧ loadPacket v s = decodeFail .bufferTooShort s) ∨
      (6 ≤ wireLength s ∧ wireLength s ≤ operandBuflen s ∧
        loadPacket v s = complete .ok
          { s with variant := some v, totlen := wireLength s, flags := allOk, res0 := BitVec.ofNat 32 v.code }) := by
  unfold loadPacket
  split
  · next h => exact .inl ⟨.inl h, rfl⟩
  · next h =>
    split
    · next h' => exact .inl ⟨.inr h', rfl⟩
    · next h' => exact .inr ⟨Nat.le_of_not_lt h, Nat.le_of_not_lt h', rfl⟩

/-- A packet's length by its length byte is 5 to 260 (30_encoding R101, R103). -/
theorem wireLength_bounds (s : State) : 5 ≤ wireLength s ∧ wireLength s ≤ 260 := by
  have := (pktAt s 3).isLt
  unfold wireLength
  omega

/-- Dispatch answers a variant with that command byte. -/
theorem variantOf_byte {t : CmdTable} {b : Byte} {v : Variant} (h : t.variantOf b = some v) : t.byte v = b := by
  have := List.find?_some h
  simpa using this

/-- Every variant is in the list. -/
theorem mem_allVariants (v : Variant) : v ∈ allVariants := by cases v <;> decide

/-- Dispatch answers none only where no variant has the byte. -/
theorem variantOf_none {t : CmdTable} {b : Byte} (h : t.variantOf b = none) (v : Variant) : t.byte v ≠ b := by
  have := List.find?_eq_none.mp h v (mem_allVariants v)
  simpa using this

/-! ### NEW, FINISH and the host's read -/

@[simp] theorem newPacket_stg (t : CmdTable) (v : Variant) (s : State) : (newPacket t v s).stg = s.stg := rfl
@[simp] theorem newPacket_totlen (t : CmdTable) (v : Variant) (s : State) : (newPacket t v s).totlen = initTotlen v := rfl
@[simp] theorem newPacket_variant (t : CmdTable) (v : Variant) (s : State) : (newPacket t v s).variant = some v := rfl
@[simp] theorem newPacket_flags (t : CmdTable) (v : Variant) (s : State) : (newPacket t v s).flags = preset v := rfl
@[simp] theorem newPacket_buflen (t : CmdTable) (v : Variant) (s : State) : (newPacket t v s).buflen = s.buflen := rfl
@[simp] theorem newPacket_raMax (t : CmdTable) (v : Variant) (s : State) : (newPacket t v s).raMax = s.raMax := rfl
@[simp] theorem newPacket_arg0 (t : CmdTable) (v : Variant) (s : State) : (newPacket t v s).arg0 = s.arg0 := rfl
@[simp] theorem newPacket_arg1 (t : CmdTable) (v : Variant) (s : State) : (newPacket t v s).arg1 = s.arg1 := rfl
@[simp] theorem newPacket_res0 (t : CmdTable) (v : Variant) (s : State) : (newPacket t v s).res0 = s.res0 := rfl
@[simp] theorem newPacket_acc (t : CmdTable) (v : Variant) (s : State) : (newPacket t v s).acc = s.acc := rfl
@[simp] theorem newPacket_busy (t : CmdTable) (v : Variant) (s : State) : (newPacket t v s).busy = s.busy := rfl
@[simp] theorem newPacket_ovr (t : CmdTable) (v : Variant) (s : State) : (newPacket t v s).ovr = s.ovr := rfl
@[simp] theorem newPacket_result (t : CmdTable) (v : Variant) (s : State) : (newPacket t v s).result = s.result := rfl
@[simp] theorem newPacket_code (t : CmdTable) (v : Variant) (s : State) : (newPacket t v s).code = s.code := rfl
@[simp] theorem newPacket_pending (t : CmdTable) (v : Variant) (s : State) : (newPacket t v s).pending = s.pending := rfl
@[simp] theorem newPacket_latency (t : CmdTable) (v : Variant) (s : State) : (newPacket t v s).latency = s.latency := rfl
@[simp] theorem newPacket_draws (t : CmdTable) (v : Variant) (s : State) : (newPacket t v s).draws = s.draws := rfl
@[simp] theorem newPacket_epoch (t : CmdTable) (v : Variant) (s : State) : (newPacket t v s).epoch = s.epoch := rfl
@[simp] theorem newPacket_host (t : CmdTable) (v : Variant) (s : State) : (newPacket t v s).host = s.host := rfl
@[simp] theorem newPacket_rdata (t : CmdTable) (v : Variant) (s : State) : (newPacket t v s).rdata = s.rdata := rfl
@[simp] theorem newPacket_cmdTable (t : CmdTable) (v : Variant) (s : State) : (newPacket t v s).cmdTable = s.cmdTable := rfl
@[simp] theorem hostRead_pkt (a : BitVec 14) (l : Location) (s : State) : (hostRead a l s).pkt = s.pkt := by
  unfold hostRead; split <;> rfl
@[simp] theorem hostRead_stg (a : BitVec 14) (l : Location) (s : State) : (hostRead a l s).stg = s.stg := by
  unfold hostRead; split <;> rfl
@[simp] theorem hostRead_totlen (a : BitVec 14) (l : Location) (s : State) : (hostRead a l s).totlen = s.totlen := by
  unfold hostRead; split <;> rfl
@[simp] theorem hostRead_variant (a : BitVec 14) (l : Location) (s : State) : (hostRead a l s).variant = s.variant := by
  unfold hostRead; split <;> rfl
@[simp] theorem hostRead_flags (a : BitVec 14) (l : Location) (s : State) : (hostRead a l s).flags = s.flags := by
  unfold hostRead; split <;> rfl
@[simp] theorem hostRead_buflen (a : BitVec 14) (l : Location) (s : State) : (hostRead a l s).buflen = s.buflen := by
  unfold hostRead; split <;> rfl
@[simp] theorem hostRead_raMax (a : BitVec 14) (l : Location) (s : State) : (hostRead a l s).raMax = s.raMax := by
  unfold hostRead; split <;> rfl
@[simp] theorem hostRead_arg0 (a : BitVec 14) (l : Location) (s : State) : (hostRead a l s).arg0 = s.arg0 := by
  unfold hostRead; split <;> rfl
@[simp] theorem hostRead_arg1 (a : BitVec 14) (l : Location) (s : State) : (hostRead a l s).arg1 = s.arg1 := by
  unfold hostRead; split <;> rfl
@[simp] theorem hostRead_res0 (a : BitVec 14) (l : Location) (s : State) : (hostRead a l s).res0 = s.res0 := by
  unfold hostRead; split <;> rfl
@[simp] theorem hostRead_acc (a : BitVec 14) (l : Location) (s : State) : (hostRead a l s).acc = s.acc := by
  unfold hostRead; split <;> rfl
@[simp] theorem hostRead_busy (a : BitVec 14) (l : Location) (s : State) : (hostRead a l s).busy = s.busy := by
  unfold hostRead; split <;> rfl
@[simp] theorem hostRead_ovr (a : BitVec 14) (l : Location) (s : State) : (hostRead a l s).ovr = s.ovr := by
  unfold hostRead; split <;> rfl
@[simp] theorem hostRead_result (a : BitVec 14) (l : Location) (s : State) : (hostRead a l s).result = s.result := by
  unfold hostRead; split <;> rfl
@[simp] theorem hostRead_code (a : BitVec 14) (l : Location) (s : State) : (hostRead a l s).code = s.code := by
  unfold hostRead; split <;> rfl
@[simp] theorem hostRead_pending (a : BitVec 14) (l : Location) (s : State) : (hostRead a l s).pending = s.pending := by
  unfold hostRead; split <;> rfl
@[simp] theorem hostRead_latency (a : BitVec 14) (l : Location) (s : State) : (hostRead a l s).latency = s.latency := by
  unfold hostRead; split <;> rfl
@[simp] theorem hostRead_epoch (a : BitVec 14) (l : Location) (s : State) : (hostRead a l s).epoch = s.epoch := by
  unfold hostRead; split <;> rfl
@[simp] theorem hostRead_host (a : BitVec 14) (l : Location) (s : State) : (hostRead a l s).host = s.host := by
  unfold hostRead; split <;> rfl
@[simp] theorem hostRead_cmdTable (a : BitVec 14) (l : Location) (s : State) : (hostRead a l s).cmdTable = s.cmdTable := by
  unfold hostRead; split <;> rfl

/-- The list of PKT after NEW. -/
theorem newPacket_pkt (t : CmdTable) (v : Variant) (s : State) :
    (newPacket t v s).pkt = writeBelow 260 4 (t.byte v)
      (writeBelow 260 0 Config.marker (writeRun 0 (List.replicate 260 0x00#8) s.pkt)) := rfl

/-- NEW keeps the canonical form of PKT. -/
theorem newPacket_wf {s : State} (h : s.pkt.wf 260) (t : CmdTable) (v : Variant) : (newPacket t v s).pkt.wf 260 := by
  rw [newPacket_pkt, writeRun]
  exact writeBelow_wf (writeBelow_wf (writeBytes_wf h _ _) _ _) _ _

/-- Read after a zero fill from offset 0. -/
theorem readCell_zeroRun (k : Nat) (m : Memory) (j : Nat) :
    readCell (writeRun 0 (List.replicate k 0x00#8) m) j =
      if j < k ∧ j < 260 then some 0x00#8 else readCell m j := by
  rw [writeRun, Config.maxTotal, readCell_writeBytes]
  by_cases h : j < k <;> simp [h]

/-- The bytes of a new packet: 0x00 below 260 but for the marker and the command byte. -/
theorem pktAt_newPacket (t : CmdTable) (v : Variant) (s : State) (j : Nat) :
    pktAt (newPacket t v s) j =
      if j = 4 then t.byte v else if j = 0 then Config.marker else if j < 260 then 0x00#8 else pktAt s j := by
  have he : (newPacket t v s).epoch = s.epoch := rfl
  rw [pktAt, newPacket_pkt, readCell_writeBelow, readCell_writeBelow, readCell_zeroRun, he, pktAt]
  repeat' split
  all_goals first | rfl | omega

/-- The bytes after the two stamps of FINISH. -/
theorem pktAt_stamps (s : State) (j : Nat) :
    pktAt (stampChecksum (stampLength s)) j =
      if j = s.totlen - 1 ∧ s.totlen - 1 < 260 then accLoop (stampLength s) (s.totlen - 1)
      else if j = 3 then BitVec.ofNat 8 (s.totlen - 5) else pktAt s j := by
  have ht : (stampLength s).totlen = s.totlen := setPkt_totlen _ _ _
  rw [stampChecksum, ht, pktAt_setPkt, pktAt_accumulate, stampLength, pktAt_setPkt]
  simp [accumulate]

/-- The list of PKT after the two stamps of FINISH. -/
theorem stamps_pkt (s : State) :
    (stampChecksum (stampLength s)).pkt = writeBelow 260 (s.totlen - 1) (accLoop (stampLength s) (s.totlen - 1))
      (writeBelow 260 3 (BitVec.ofNat 8 (s.totlen - 5)) s.pkt) := rfl

/-- The stamps keep the canonical form of PKT. -/
theorem stamps_wf {s : State} (h : s.pkt.wf 260) : (stampChecksum (stampLength s)).pkt.wf 260 := by
  rw [stamps_pkt]
  exact writeBelow_wf (writeBelow_wf h _ _) _ _

/-- STATUS shows five pieces of state and nothing else. -/
theorem statusWord_congr {s t : State} (hb : t.busy = s.busy) (ho : t.ovr = s.ovr) (hr : t.result = s.result)
    (hv : t.variant = s.variant) (hc : t.code = s.code) : statusWord t = statusWord s := by
  simp [statusWord, hb, ho, hr, hv, hc]

/-- The accumulator's loop reads the bytes below its bound and nothing else. -/
theorem accLoop_congr {s t : State} {n : Nat} (h : ∀ j, j < n → pktAt t j = pktAt s j) :
    accLoop t n = accLoop s n := by
  induction n with
  | zero => rfl
  | succ n ih => rw [accLoop, accLoop, ih fun j hj => h j (by omega), h n (by omega)]

/-- The exact sum reads the bytes below its bound and nothing else. -/
theorem sumPkt_congr {s t : State} {n : Nat} (h : ∀ j, j < n → pktAt t j = pktAt s j) :
    sumPkt t n = sumPkt s n := by
  induction n with
  | zero => rfl
  | succ n ih => rw [sumPkt, sumPkt, ih fun j hj => h j (by omega), h n (by omega)]

/-! ### A step -/

/-- A step either runs the operation in flight whose time is over, or takes the next action. -/
theorem step_cases (s : State) :
    (∃ p, s.pending = some p ∧ s.latency = 0 ∧ step s = exec p.op s) ∨
      ((s.pending = none ∨ s.latency ≠ 0) ∧ step s = hostStep s) := by
  unfold step completing
  cases hp : s.pending with
  | none => exact .inr ⟨.inl rfl, rfl⟩
  | some p =>
    by_cases hl : s.latency = 0
    · exact .inl ⟨p, rfl, hl, by simp [hl]⟩
    · exact .inr ⟨.inr hl, by simp [hl]⟩

/-- Elapsing keeps every field but the latency. -/
theorem elapseIf_eq (b : Bool) (s : State) :
    elapseIf b s = { s with latency := if b then s.latency - 1 else s.latency } := by cases b <;> rfl

/-- Any step in which no operation completes is the Host's. -/
theorem step_eq_hostStep {s : State} (h : s.pending = none ∨ s.latency ≠ 0) : step s = hostStep s := by
  rcases step_cases s with ⟨p, hp, hl, _⟩ | ⟨_, h2⟩
  · simp [hp, hl] at h
  · exact h2

/-- A host write keeps what the Host has yet to do, the word it read and the model's epoch. -/
theorem hostWrite_host (w : Word) (l : Location) (s : State) : (hostWrite w l s).host = s.host := by
  unfold hostWrite
  split
  · rfl
  · cases l with
    | pkt i => exact setPkt_host _ _ _
    | stg i => exact setStg_host _ _ _
    | reg r =>
      cases r <;> simp only [writeLoc, writeReg]
      · unfold writeCmd; split <;> rfl
      · unfold writeBuflen; split <;> rfl
      · unfold writeConfig; dsimp only; split <;> rfl

/-- A run goes on from the state its first step answers. -/
theorem run_succ {s t : State} (k : Nat) (h : step s = .next t) :
    Host.Core.run Sys2Proof.core (k + 1) s = Host.Core.run Sys2Proof.core k t := by
  have h' : Sys2Proof.core.step s = .next t := h
  simp only [Host.Core.run, h']

end Sys2Proof.Machine
end

