-- ==== Sys2Proof/Laws/PerInstr.lean ====
section
/-! SUPPORT. Statements made once per instruction: the shape of every encoding. -/

namespace Sys2Proof.Laws.EncodingShape

/-- Under every CMD_TABLE: an operation word has its reserved bits 0 and, unless it is NEW, VAR 0 (30_encoding R90,
R92); a wire instruction is encoded as a command byte that the table recognizes (30_encoding R105). -/
def Statement (i : Instr) : Prop :=
  ∀ t : CmdTable, match encode t i with
    | .opWord w => reservedField w = 0#20 ∧ (opcField w ≠ opcNew → varField w = 0#4)
    | .command b => t.variantOf b ≠ none

/-- The byte of a variant is recognized. -/
theorem variantOf_byte_ne_none (t : CmdTable) (v : Variant) : t.variantOf (t.byte v) ≠ none := fun h => by
  have := List.find?_eq_none.mp h v (by cases v <;> decide)
  simp at this

theorem new (var : BitVec 4) : Statement (.new var) := by
  intro _
  simp only [encode]
  revert var
  decide

theorem decode : Statement .decode := by intro _; simp only [encode]; decide
theorem finish : Statement .finish := by intro _; simp only [encode]; decide
theorem check : Statement .check := by intro _; simp only [encode]; decide
theorem csum : Statement .csum := by intro _; simp only [encode]; decide
theorem release : Statement .release := by intro _; simp only [encode]; decide
theorem setDest : Statement .setDest := by intro _; simp only [encode]; decide
theorem setSrc : Statement .setSrc := by intro _; simp only [encode]; decide
theorem setAddr : Statement .setAddr := by intro _; simp only [encode]; decide
theorem setCount : Statement .setCount := by intro _; simp only [encode]; decide
theorem setData : Statement .setData := by intro _; simp only [encode]; decide
theorem setDatas : Statement .setDatas := by intro _; simp only [encode]; decide
theorem setAddrs : Statement .setAddrs := by intro _; simp only [encode]; decide
theorem setId3 : Statement .setId3 := by intro _; simp only [encode]; decide
theorem setId5 : Statement .setId5 := by intro _; simp only [encode]; decide
theorem setCaps : Statement .setCaps := by intro _; simp only [encode]; decide
theorem getDest : Statement .getDest := by intro _; simp only [encode]; decide
theorem getSrc : Statement .getSrc := by intro _; simp only [encode]; decide
theorem getAddr : Statement .getAddr := by intro _; simp only [encode]; decide
theorem getCount : Statement .getCount := by intro _; simp only [encode]; decide
theorem getData : Statement .getData := by intro _; simp only [encode]; decide
theorem getDatacount : Statement .getDatacount := by intro _; simp only [encode]; decide
theorem getAddrcount : Statement .getAddrcount := by intro _; simp only [encode]; decide
theorem getId3 : Statement .getId3 := by intro _; simp only [encode]; decide
theorem getCaplen : Statement .getCaplen := by intro _; simp only [encode]; decide
theorem getLen : Statement .getLen := by intro _; simp only [encode]; decide
theorem getCmd : Statement .getCmd := by intro _; simp only [encode]; decide
theorem getChecksum : Statement .getChecksum := by intro _; simp only [encode]; decide
theorem getKey : Statement .getKey := by intro _; simp only [encode]; decide
theorem getHeader : Statement .getHeader := by intro _; simp only [encode]; decide
theorem initrq : Statement .initrq := fun t => variantOf_byte_ne_none t .initrq
theorem initrs : Statement .initrs := fun t => variantOf_byte_ne_none t .initrs
theorem rbrq : Statement .rbrq := fun t => variantOf_byte_ne_none t .rbrq
theorem rbrs : Statement .rbrs := fun t => variantOf_byte_ne_none t .rbrs
theorem rarq : Statement .rarq := fun t => variantOf_byte_ne_none t .rarq
theorem rars : Statement .rars := fun t => variantOf_byte_ne_none t .rars
theorem warq : Statement .warq := fun t => variantOf_byte_ne_none t .warq
theorem wars : Statement .wars := fun t => variantOf_byte_ne_none t .wars

end Sys2Proof.Laws.EncodingShape
end

