-- ==== Sys2Proof/Laws/Setters.lean ====
section
/-! SUPPORT. All that the ten setters can do, said once (42_field_setters R200 to R202). -/

namespace Sys2Proof.Machine

/-- What commit does, in the words of the claims: the tracker update, the stored field and the frame. -/
theorem commit_spec (fl : Flag) (n off : Nat) (bs : List Byte) (s : State) (hn : n ≤ 260 ∨ n = s.totlen)
    (ho : off + bs.length ≤ 260) :
    SetterFrame s (complete .ok (commit fl n off bs s)) ∧
      TrackerUpdate fl s (complete .ok (commit fl n off bs s)) ∧
      StoredField off n bs s (complete .ok (commit fl n off bs s)) := by
  refine ⟨by simp [SetterFrame, EndedWith, KeepsHostSide], ?_, rfl, fun j => ?_⟩
  · have hch : PacketChanged s (complete .ok (commit fl n off bs s)) ↔
        (n != s.totlen || pktDiffers n s (commit fl n off bs s)) = true := by
      simp [PacketChanged, pktDiffers_iff]
    have hf := commit_flags fl n off bs s
    refine ⟨fun h => ?_, fun h => ?_⟩
    · rw [hch] at h
      show (commit fl n off bs s).flags = _
      rw [hf, if_pos h]; rfl
    · rw [hch] at h
      show (commit fl n off bs s).flags = _
      rw [hf, if_neg h]; rfl
  · rw [pktAt_complete, pktAt_commit]
    repeat' split
    all_goals first | rfl | omega

/-- The new length and the number of bytes that a setter of the field `f` gives commit (42_field_setters R203 to R212). -/
def SetterShape (f : Field) (slot : Slot) (n : Nat) (bs : List Byte) (s : State) : Prop :=
  match f with
  | .dest | .src => n = s.totlen ∧ bs.length = 1
  | .addr | .count | .data | .id3 | .id5 => n = s.totlen ∧ slot.width = some bs.length
  | .datas => ∃ k, 1 ≤ k ∧ k ≤ 254 ∧ n = 6 + k ∧ bs.length = k
  | .addrs => ∃ k, 1 ≤ k ∧ k ≤ operandRaMax s ∧ n = 7 + 3 * k ∧ bs.length = 3 * k
  | .caps => ∃ k, 1 ≤ k ∧ k ≤ 246 ∧ n = 14 + k ∧ bs.length = k

/-- All a setter can do: end with a failing outcome and nothing else, or pass its tests and commit its field. -/
theorem setter_cases {i : Instr} {f : Field} {s t : State} (hf : setterField i = some f) (h : exec i s = .next t) :
    (∃ c, c ≠ .ok ∧ t = complete c s) ∨
      ∃ v slot n bs, s.variant = some v ∧ fieldSlot v f = some slot ∧ slot.tooLong s.totlen = false ∧
        SetterShape f slot n bs s ∧ t = complete .ok (commit slot.flag n slot.off bs s) := by
  have hR : ∀ (g : Field) (e b : Bool) (n : Nat) (bs : List Byte),
      (∀ v slot, fieldSlot v g = some slot → e = false → b = false → SetterShape g slot n bs s) →
      Host.Outcome.next (φ := Fault) (ρ := Refusal)
        (runSetter g e b s (fun slot => commit slot.flag n slot.off bs s)) = .next t →
      (∃ c, c ≠ .ok ∧ t = complete c s) ∨
        ∃ v slot n bs, s.variant = some v ∧ fieldSlot v g = some slot ∧ slot.tooLong s.totlen = false ∧
          SetterShape g slot n bs s ∧ t = complete .ok (commit slot.flag n slot.off bs s) := by
    intro g e b n bs hsh h
    cases h
    rcases runSetter_cases g e b s (fun slot => commit slot.flag n slot.off bs s) with ⟨c, hc, h⟩ | ⟨v, slot, hv, hs, h1, h2, h3, h⟩
    · exact .inl ⟨c, hc, h⟩
    · exact .inr ⟨v, slot, n, bs, hv, hs, h3, hsh v slot hs h1 h2, h⟩
  cases i <;> simp only [setterField, Option.some.injEq, reduceCtorEq] at hf <;> subst hf
  · exact hR .dest _ _ _ _ (fun v slot hs _ _ => ⟨rfl, rfl⟩) h
  · exact hR .src _ _ _ _ (fun v slot hs _ _ => ⟨rfl, rfl⟩) h
  · refine hR .addr _ _ _ _ (fun v slot hs _ _ => ⟨rfl, ?_⟩) h
    cases v <;> cases hs <;> rfl
  · refine hR .count _ _ _ _ (fun v slot hs _ _ => ⟨rfl, ?_⟩) h
    cases v <;> cases hs
    rfl
  · refine hR .data _ _ _ _ (fun v slot hs _ _ => ⟨rfl, ?_⟩) h
    cases v <;> cases hs <;> rfl
  · refine hR .datas _ _ _ _ (fun v slot hs h1 h2 => ⟨arg1Count s, ?_, ?_, rfl, by simp⟩) h
    · simp at h1; omega
    · simpa [Config.dataMax] using h2
  · refine hR .addrs _ _ _ _ (fun v slot hs h1 h2 => ⟨arg1Count s, ?_, ?_, rfl, by simp⟩) h
    · simp at h2; omega
    · simp at h2; omega
  · refine hR .id3 _ _ _ _ (fun v slot hs _ _ => ⟨rfl, ?_⟩) h
    cases v <;> cases hs
    rfl
  · refine hR .id5 _ _ _ _ (fun v slot hs _ _ => ⟨rfl, ?_⟩) h
    cases v <;> cases hs
    rfl
  · refine hR .caps _ _ _ _ (fun v slot hs h1 h2 => ⟨arg1Count s, ?_, ?_, rfl, by simp⟩) h
    · simp at h1; omega
    · simpa [Config.capsMax] using h2

end Sys2Proof.Machine
end

