-- ==== Sys2Proof/Tests/Slice0.lean ====
section
/-! SUPPORT. The model's own tests: the WellFormed smoke, decoding of words and bytes written out from 30_encoding R90,
R91 and R105, one-step tests with the results of spec/95_test_vectors.md (each theorem names its vector), and for every
obligation with hypotheses a state and operands that meet them. -/

namespace Sys2Proof.Tests

open Sys2Proof.Machine

/-! ### Helpers -/

/-- Bytes as a buffer from an offset. -/
def cells : Nat → List Byte → Memory
  | _, [] => []
  | off, b :: bs => (off, b) :: cells (off + 1) bs

/-- An idle block with these bytes in PKT. -/
def raw (bytes : List Byte) : State := { State.reset with pkt := cells 0 bytes, buflen := bytes.length }

/-- An idle block with a packet loaded. -/
def loaded (v : Variant) (flags : BitVec 6) (bytes : List Byte) : State :=
  { raw bytes with variant := some v, totlen := bytes.length, flags := flags }

/-- With ARG0. -/
def withArg0 (w : Word) (s : State) : State := { s with arg0 := w }

/-- With bytes in STG and ARG1. -/
def withStg (bytes : List Byte) (n : Word) (s : State) : State := { s with stg := cells 0 bytes, arg1 := n }

/-- With these actions before the Host. -/
def withHost (l : List HostAction) (s : State) : State := { s with host := l }

/-- With this operation in flight. -/
def inFlight (i : Instr) (n : Nat) (s : State) : State :=
  { s with busy := true, pending := some ⟨i, s.arg0, s.arg1, s.buflen, s.raMax⟩, latency := n }

/-- What a test looks at in the next state, if there is one. -/
def see {α : Type} (o : Host.Outcome State Fault Refusal) (f : State → α) : Option α :=
  match o with
  | .next t => some (f t)
  | .fault _ => none
  | .refused _ => none

/-- PKT[0..n). -/
def bytes (n : Nat) (t : State) : List Byte := (List.range n).map (pktAt t)

/-- The source's example packets E1 to E4 (spec/95, L1) and four derived ones (V-SET-12, -13, -18, -32). -/
def e1 : List Byte := [0x80, 0x10, 0xF0, 0x01, 0xBF, 0x40]
def e2 : List Byte := [0x80, 0xF0, 0x10, 0x02, 0xF8, 0x02, 0x7C]
def e3 : List Byte := [0x80, 0x10, 0xF0, 0x05, 0xA8, 0x00, 0x12, 0x34, 0x56, 0xC9]
def e4 : List Byte := [0x80, 0xF0, 0x10, 0x04, 0xE0, 0x01, 0x02, 0x03, 0x6A]
def rbrq12 : List Byte := [0x80, 0x10, 0xF0, 0x06, 0xA0, 0x00, 0x12, 0x34, 0x56, 0xFF, 0xC1]
def warq13 : List Byte := [0x80, 0x10, 0xF0, 0x05, 0xB8, 0x00, 0x00, 0x61, 0x02, 0xA0]
def rars18 : List Byte := [0x80, 0xF0, 0x10, 0x02, 0xE8, 0x5A, 0xC4]
def initrs32 : List Byte := [0x80, 0xF0, 0x10, 0x09, 0xFF, 0x01, 0x02, 0x03, 0x04, 0x05, 0x06, 0x07, 0x08, 0xAC]

/-! ### WellFormed -/

theorem test_wellFormed_refuses_new_0 : ¬ (Instr.new 0#4).WellFormed := by unfold Instr.WellFormed; decide
theorem test_wellFormed_refuses_new_9 : ¬ (Instr.new 9#4).WellFormed := by unfold Instr.WellFormed; decide
theorem test_wellFormed_admits_new_8 : (Instr.new 8#4).WellFormed := by unfold Instr.WellFormed; decide

/-! ### Decoding: words and bytes written out from 30_encoding R90, R91 and R105 -/

theorem test_decode_new : (List.range 8).map (fun v => decodeTableWord 32 (0x100 * (v + 1) + 0x01)) =
    [some (.new 1#4), some (.new 2#4), some (.new 3#4), some (.new 4#4), some (.new 5#4), some (.new 6#4),
      some (.new 7#4), some (.new 8#4)] := by decide

/-- Bit by bit: reserved, VAR = 0111, OPC = 00000001. -/
theorem test_decode_new_bits :
    decodeTableWord 32 0b00000000000000000000011100000001 = some (.new 7#4) := by decide

theorem test_decode_lifecycle : [0x02, 0x03, 0x04, 0x05, 0x06].map (decodeTableWord 32) =
    [some .decode, some .finish, some .check, some .csum, some .release] := by decide

theorem test_decode_lifecycle_bits :
    decodeTableWord 32 0b00000000000000000000000000000011 = some .finish := by decide

theorem test_decode_setters :
    [0x10, 0x11, 0x12, 0x13, 0x14, 0x15, 0x16, 0x17, 0x18, 0x19].map (decodeTableWord 32) =
      [some .setDest, some .setSrc, some .setAddr, some .setCount, some .setData, some .setDatas, some .setAddrs,
        some .setId3, some .setId5, some .setCaps] := by decide

theorem test_decode_setters_bits :
    decodeTableWord 32 0b00000000000000000000000000010110 = some .setAddrs := by decide

theorem test_decode_getters :
    [0x20, 0x21, 0x22, 0x23, 0x24, 0x25, 0x26, 0x27, 0x28, 0x29, 0x2A, 0x2B, 0x2C, 0x2D].map (decodeTableWord 32) =
      [some .getDest, some .getSrc, some .getAddr, some .getCount, some .getData, some .getDatacount,
        some .getAddrcount, some .getId3, some .getCaplen, some .getLen, some .getCmd, some .getChecksum,
        some .getKey, some .getHeader] := by decide

theorem test_decode_getters_bits :
    decodeTableWord 32 0b00000000000000000000000000101100 = some .getKey := by decide

theorem test_decode_wire : [0xBF, 0xFF, 0xA0, 0xE0, 0xA8, 0xE8, 0xB8, 0xF8].map (decodeTableWord 8) =
    [some .initrq, some .initrs, some .rbrq, some .rbrs, some .rarq, some .rars, some .warq, some .wars] := by decide

theorem test_decode_wire_bits : decodeTableWord 8 0b10101000 = some .rarq := by decide

/-- V-ENC-1 to V-ENC-8, each word with the reason. -/
theorem test_decode_illegal :
    [0x00000000, 0x00000001, 0x00000901, 0x00000F01, 0x00000103, 0x00001000, 0x80000003, 0x00000007, 0x0000001A,
      0x0000002E, 0x000000FF].map decodeOp =
    [.rejected .unassignedOpc, .rejected .badVariant, .rejected .badVariant, .rejected .badVariant,
      .rejected .strayVariant, .rejected .reservedBits, .rejected .reservedBits, .rejected .unassignedOpc,
      .rejected .unassignedOpc, .rejected .unassignedOpc, .rejected .unassignedOpc] := by decide

/-! ### A table row as the first instruction after reset -/

/-- Operation words: what the step answers is what the row's instruction answers. -/
theorem test_fetch_word :
    [(0x00000701, Instr.new 7#4), (0x00000004, .check), (0x00000005, .csum), (0x00000014, .setData),
      (0x0000002C, .getKey)].map (fun p =>
        (see (step (State.reset.withFetchWord 32 p.1)) fun t => (t.code, t.variant, t.busy)) ==
          see (exec p.2 (State.reset.withFetchWord 32 p.1)) fun t => (t.code, t.variant, t.busy)) =
      List.replicate 5 true := by decide +kernel

/-- Command bytes: DECODE selects the row's variant and its constructor loads the packet. -/
theorem test_fetch_byte : [0xBF, 0xFF, 0xA0, 0xE0, 0xA8, 0xE8, 0xB8, 0xF8].map
      (fun b => see (step (State.reset.withFetchWord 8 b)) fun t => (t.variant, t.totlen, t.code)) =
    [some (some .initrq, 6, .ok), some (some .initrs, 6, .ok), some (some .rbrq, 6, .ok), some (some .rbrs, 6, .ok),
      some (some .rarq, 6, .ok), some (some .rars, 6, .ok), some (some .warq, 6, .ok), some (some .wars, 6, .ok)] := by
  decide +kernel

/-! ### Lifecycle and checksum -/

/-- V-NEW-7, and V-NEW-9 at the two ends of the zero fill. -/
theorem test_new_warq : see (exec (.new 7#4) State.reset) (fun t =>
      (t.totlen, t.flags, t.variant, bytes 10 t, [pktAt t 10, pktAt t 259])) =
    some (10, 0x10#6, some .warq, [0x80, 0, 0, 0, 0xB8, 0, 0, 0, 0, 0], [0, 0]) := by decide +kernel

/-- E5 on E4, with the trailing bytes of V-DEC-8. -/
theorem test_decode_e4 : see (exec .decode (raw (e4 ++ [0xAA, 0xBB]))) (fun t =>
      (t.variant, t.totlen, t.flags, t.res0, t.code)) =
    some (some .rbrs, 9, 0x3F#6, 4#32, .ok) := by decide

/-- V-DEC-2: the size test comes before the command byte. -/
theorem test_decode_short_first : see (exec .decode (raw [0x80, 0x10, 0xF0, 0x01, 0x00])) (·.code) =
    some .bufferTooShort := by decide

/-- V-FIN-9: the checksum covers the stamped length byte. -/
theorem test_finish_stamps : see (exec .finish (loaded .initrq 0x1F#6 [0x80, 0x10, 0xF0, 0x00, 0xBF, 0x00])) (fun t =>
      (bytes 6 t == e1, t.flags, t.acc, t.res0, t.code)) = some (true, 0x3F#6, 0x40#8, 0#32, .ok) := by decide

/-- E7b: DEST, ADDR and DATA are missing. -/
theorem test_finish_incomplete : see (exec .finish (loaded .warq 0x11#6 [0x80, 0, 0xF0, 0, 0xB8, 0, 0, 0, 0, 0])) (fun t =>
      (t.code, t.res0, t.flags)) = some (.packetIncomplete, 0x0E#32, 0x11#6) := by decide

/-- V-CHK-4. -/
theorem test_check_e2 : see (exec .check (loaded .wars 0x3F#6 e2)) (fun t => (t.res0, t.result, t.acc)) =
    some (0x7F#32, true, 0x7C#8) := by decide

/-- V-CHK-14: only the size test fails. -/
theorem test_check_size : see (exec .check (loaded .rarq 0x3F#6
      [0x80, 0x10, 0xF0, 0x06, 0xA8, 0x00, 0x01, 0x02, 0x03, 0x04, 0x38])) (fun t => (t.res0, t.result)) =
    some (0x3E#32, false) := by decide

/-- V-CS-8: CSUM needs no packet. -/
theorem test_csum : see (exec .csum (withArg0 6#32 (raw e1))) (fun t => (t.res0, t.acc, t.code)) =
    some (0x40#32, 0x40#8, .ok) := by decide

/-- V-CS-5. -/
theorem test_csum_261 : see (exec .csum (withArg0 261#32 { raw e1 with acc := 0x40#8 })) (fun t => (t.acc, t.code)) =
    some (0x40#8, .valueOutOfRange) := by decide

/-- V-REL-1. -/
theorem test_release : see (exec .release (loaded .initrq 0x1C#6 [0x80, 0, 0, 0, 0xBF, 0])) (fun t =>
      (t.variant, t.totlen, t.flags, pktAt t 4, t.code)) = some (none, 0, 0#6, 0xBF#8, .ok) := by decide

/-! ### Setters -/

/-- V-SET-4: the same value keeps CS. -/
theorem test_setDest_same : see (exec .setDest (withArg0 0x10#32 (loaded .initrq 0x3F#6 e1))) (fun t =>
      (t.flags, t.code)) = some (0x3F#6, .ok) := by decide +kernel

/-- V-SET-5: another value makes the checksum stale. -/
theorem test_setDest_changes : see (exec .setDest (withArg0 0x18#32 (loaded .initrq 0x3F#6 e1))) (fun t =>
      (t.flags, bytes 6 t)) = some (0x1F#6, [0x80, 0x18, 0xF0, 0x01, 0xBF, 0x40]) := by decide +kernel

/-- The example of 42_field_setters R204. -/
theorem test_setSrc : see (exec .setSrc (withArg0 0xF0#32 (loaded .initrq 0x1E#6 [0x80, 0x10, 0, 0, 0xBF, 0]))) (fun t =>
      (t.flags, bytes 6 t)) = some (0x1F#6, [0x80, 0x10, 0xF0, 0, 0xBF, 0]) := by decide +kernel

/-- The example of 42_field_setters R205. -/
theorem test_setAddr : see (exec .setAddr (withArg0 0x123456#32
      (loaded .rbrq 0x10#6 [0x80, 0, 0, 0, 0xA0, 0, 0, 0, 0, 0, 0]))) (fun t => (t.flags, bytes 11 t)) =
    some (0x14#6, [0x80, 0, 0, 0, 0xA0, 0, 0x12, 0x34, 0x56, 0, 0]) := by decide +kernel

/-- V-SET-8. -/
theorem test_setAddr_range : see (exec .setAddr (withArg0 0x1000000#32 (loaded .warq 0x3F#6 warq13))) (·.code) =
    some .valueOutOfRange := by decide

/-- V-SET-10. -/
theorem test_setCount_256 : see (exec .setCount (withArg0 256#32
      (loaded .rbrq 0x10#6 [0x80, 0, 0, 0, 0xA0, 0, 0, 0, 0, 0, 0]))) (fun t => (t.flags, pktAt t 9, t.code)) =
    some (0x18#6, 0xFF#8, .ok) := by decide +kernel

/-- V-SET-11. -/
theorem test_setCount_0 : see (exec .setCount (withArg0 0#32 (loaded .rbrq 0x3F#6 rbrq12))) (·.code) =
    some .valueOutOfRange := by decide

/-- The example of 42_field_setters R207. -/
theorem test_setData : see (exec .setData (withArg0 0x02#32 (loaded .wars 0x18#6 [0x80, 0, 0, 0, 0xF8, 0, 0]))) (fun t =>
      (t.flags, bytes 7 t)) = some (0x1C#6, [0x80, 0, 0, 0, 0xF8, 0x02, 0]) := by decide +kernel

/-- V-DEC-13: offset 5 of a 6-byte packet is its checksum byte. -/
theorem test_setData_short : see (exec .setData (withArg0 0x02#32
      (loaded .wars 0x3F#6 [0x80, 0xF0, 0x10, 0x01, 0xF8, 0x79]))) (·.code) = some .bufferTooShort := by decide

/-- V-SET-20: a shrinking packet leaves the bytes it drops. -/
theorem test_setDatas_shrinks : see (exec .setDatas (withStg [0x09, 0x09] 2#32
      (loaded .rbrs 0x3F#6 [0x80, 0xF0, 0x10, 0x05, 0xE0, 0x01, 0x02, 0x03, 0x04, 0x6F]))) (fun t =>
      (t.totlen, t.flags, bytes 10 t)) =
    some (8, 0x1F#6, [0x80, 0xF0, 0x10, 0x05, 0xE0, 0x09, 0x09, 0x03, 0x04, 0x6F]) := by decide +kernel

/-- V-SET-15. -/
theorem test_setDatas_empty : see (exec .setDatas (withStg [] 0#32 (loaded .rbrs 0x3F#6 e4))) (·.code) =
    some .argumentInvalid := by decide

/-- V-SET-26: the field, and the zero fill at the new checksum position. -/
theorem test_setAddrs : see (exec .setAddrs (withStg [0x12, 0x34, 0x56, 0xAB, 0xCD, 0xEF] 2#32
      (loaded .rarq 0x1B#6 [0x80, 0x10, 0xF0, 0x00, 0xA8, 0x00, 0x00]))) (fun t => (t.totlen, t.flags, bytes 13 t)) =
    some (13, 0x1F#6, [0x80, 0x10, 0xF0, 0x00, 0xA8, 0x00, 0x12, 0x34, 0x56, 0xAB, 0xCD, 0xEF, 0x00]) := by
  decide +kernel

/-- V-SET-22: an empty list is ValueOutOfRange. -/
theorem test_setAddrs_empty : see (exec .setAddrs (withStg [] 0#32 (loaded .rarq 0x3F#6 e3))) (·.code) =
    some .valueOutOfRange := by decide

/-- The example of 42_field_setters R210. -/
theorem test_setId3 : see (exec .setId3 (withStg [0x01, 0x02, 0x03] 3#32
      (loaded .initrs 0x10#6 [0x80, 0, 0, 0, 0xFF, 0, 0, 0, 0, 0, 0, 0, 0, 0]))) (fun t => (t.flags, bytes 9 t)) =
    some (0x14#6, [0x80, 0, 0, 0, 0xFF, 0x01, 0x02, 0x03, 0]) := by decide +kernel

/-- V-SET-28. -/
theorem test_setId3_length : see (exec .setId3 (withStg [0x01, 0x02] 2#32 (loaded .initrs 0x3F#6 initrs32))) (·.code) =
    some .valueOutOfRange := by decide

/-- The example of 42_field_setters R211. -/
theorem test_setId5 : see (exec .setId5 (withStg [0x04, 0x05, 0x06, 0x07, 0x08] 5#32
      (loaded .initrs 0x14#6 [0x80, 0, 0, 0, 0xFF, 0x01, 0x02, 0x03, 0, 0, 0, 0, 0, 0]))) (fun t =>
      (t.flags, bytes 14 t)) =
    some (0x1C#6, [0x80, 0, 0, 0, 0xFF, 0x01, 0x02, 0x03, 0x04, 0x05, 0x06, 0x07, 0x08, 0]) := by decide +kernel

/-- V-SET-35. -/
theorem test_setId5_short : see (exec .setId5 (withStg [0x04, 0x05, 0x06, 0x07, 0x08] 5#32
      (loaded .initrs 0x3F#6 [0x80, 0xF0, 0x10, 0x05, 0xFF, 0x01, 0x02, 0x03, 0x04, 0x8E]))) (·.code) =
    some .bufferTooShort := by decide

/-- The example of 42_field_setters R212. -/
theorem test_setCaps : see (exec .setCaps (withStg [0xAA, 0xBB] 2#32
      (loaded .initrs 0x10#6 [0x80, 0, 0, 0, 0xFF, 0, 0, 0, 0, 0, 0, 0, 0, 0]))) (fun t =>
      (t.totlen, (bytes 16 t).drop 12)) = some (16, [0, 0xAA, 0xBB, 0]) := by decide +kernel

/-- V-SET-31. -/
theorem test_setCaps_range : see (exec .setCaps (withStg [] 247#32 (loaded .initrs 0x3F#6 initrs32))) (·.code) =
    some .valueOutOfRange := by decide

/-! ### Getters -/

/-- V-GET-1 to V-GET-8. -/
theorem test_getters_e4 :
    [Instr.getDest, .getSrc, .getLen, .getCmd, .getChecksum, .getKey, .getHeader, .getDatacount].map
        (fun i => see (exec i (loaded .rbrs 0x3F#6 e4)) (·.res0)) =
      [some 0xF0, some 0x10, some 0x04, some 0xE0, some 0x6A, some 0x96A, some 0x80, some 3] := by decide

/-- V-GET-9: the six getters of other variants' fields. -/
theorem test_getters_not_applicable : [Instr.getAddr, .getCount, .getData, .getAddrcount, .getId3, .getCaplen].map
      (fun i => see (exec i (loaded .rbrs 0x3F#6 e4)) (·.code)) = List.replicate 6 (some .fieldNotApplicable) := by
  decide

/-- V-GET-15. -/
theorem test_getters_rbrq : [Instr.getAddr, .getCount].map (fun i => see (exec i (loaded .rbrq 0x3F#6 rbrq12)) (·.res0)) =
    [some 0x123456, some 256] := by decide

/-- V-GET-14. -/
theorem test_getters_warq : [Instr.getAddr, .getData].map (fun i => see (exec i (loaded .warq 0x3F#6 warq13)) (·.res0)) =
    [some 0x61, some 0x02] := by decide

/-- V-SET-32 and V-CHK-14. -/
theorem test_getters_counts : see (exec .getId3 (loaded .initrs 0x3F#6 initrs32)) (·.res0) = some 0x010203 ∧
    see (exec .getCaplen (loaded .initrs 0x3F#6 initrs32)) (·.res0) = some 0 ∧
    see (exec .getAddrcount (loaded .rarq 0x3F#6 e3)) (·.res0) = some 1 ∧
    see (exec .getAddrcount (loaded .rarq 0x3F#6 (e3 ++ [0]))) (·.res0) = some 0 := by decide

/-! ### Wire variants -/

/-- Each variant's constructor on a packet of its own (spec/95, E1 to E4, V-SET-12, -13, -18, -32). -/
theorem test_wire_load :
    [(Instr.initrq, e1), (.initrs, initrs32), (.rbrq, rbrq12), (.rbrs, e4), (.rarq, e3), (.rars, rars18), (.warq, warq13),
      (.wars, e2)].map (fun p => see (exec p.1 (raw p.2)) fun t => (t.totlen, t.res0, t.flags)) =
    [some (6, 1, 0x3F), some (14, 2, 0x3F), some (11, 3, 0x3F), some (9, 4, 0x3F), some (10, 5, 0x3F),
      some (7, 6, 0x3F), some (10, 7, 0x3F), some (7, 8, 0x3F)] := by decide

/-- V-DEC-3, and a buffer one byte short. -/
theorem test_wire_short : see (exec .initrq (raw [0x80, 0x10, 0xF0, 0x00, 0xBF, 0x40])) (·.code) =
      some .bufferTooShort ∧
    see (exec .rbrs { raw e4 with buflen := 8 }) (fun t => (t.code, t.variant)) = some (.bufferTooShort, none) := by
  decide

/-! ### The bus -/

/-- V-REG-1: every register after reset. -/
theorem test_registers_after_reset : [0x000, 0x004, 0x008, 0x00C, 0x010, 0x014, 0x018, 0x01C, 0x020, 0x024, 0x028,
      0x02C].map (fun a => see (step (withHost [rd a] State.reset)) (·.rdata)) =
    [some 0, some 0, some 0, some 0, some 0, some 0, some 0, some 0, some 0, some 0x24, some 0, some 0x53534D32] := by
  decide

/-- V-REG-2 and V-REG-3. -/
theorem test_config_write : [85, 0, 0x85, 84, 1].map (fun w => see (step (withHost [wr 0x024 w] State.reset)) (·.raMax)) =
    [some 36, some 36, some 5, some 84, some 1] := by decide

/-- V-REG-4. -/
theorem test_buflen_write : [261, 260].map (fun w => see (step (withHost [wr 0x020 w] State.reset)) (·.buflen)) =
    [some 0, some 260] := by decide

/-- V-REG-5. -/
theorem test_pkt_window : see (step (withHost [wr 0x1000 0x12345680#32] State.reset)) (fun t => pktAt t 0) =
    some 0x80#8 := by decide

/-- V-REG-7 and V-REG-8. -/
theorem test_bus_errors : [HostAction.read 0x002#14 4, .read 0x030#14 4, .read 0x004#14 2, .read 0x1410#14 4,
      .read 0x2400#14 4].map HostAction.mapped = [false, false, false, false, false] := by decide

/-- V-REG-9 and V-REG-10: a write while BUSY is dropped. -/
theorem test_busy_write : see (step (withHost [wr 0x008 5#32] (inFlight .check 3 State.reset))) (fun t =>
      (t.arg0, t.ovr, t.busy, t.latency)) = some (0#32, true, true, 2) := by decide

/-- V-REG-11. -/
theorem test_status_e6 : see (exec .decode (raw [0x80, 0x10, 0xF0, 0x01, 0x00, 0x40])) statusWord =
    some 0x00000500#32 := by decide

/-! ### Witnesses: for each obligation with hypotheses, a state and operands that meet them

A witness names its obligation; where it has several clauses, or a range, it meets each at a boundary. -/

/-- A table that R105 admits and is not the default one. -/
def otherTable : CmdTable := ⟨0xBF#8, 1#8, 2#8, 0xE0#8, 0xA8#8, 3#8, 4#8, 0xF8#8⟩

theorem otherTable_legal : otherTable.Legal :=
  ⟨fun v w => by cases v <;> cases w <;> decide, rfl, rfl, rfl, rfl⟩

theorem default_legal : defaultCmdTable.Legal :=
  ⟨fun v w => by cases v <;> cases w <;> decide, rfl, rfl, rfl, rfl⟩

/-- The step runs any legal table (30_encoding R105): the byte 0xFF is INITRS by the default table and unrecognized by
the other one, and NEW stamps the byte of the block's own table. -/
theorem test_step_takes_table :
    see (exec .decode (raw initrs32)) (fun t => (t.variant, t.code)) = some (some .initrs, .ok) ∧
    see (exec .decode { raw initrs32 with cmdTable := otherTable }) (fun t => (t.variant, t.code)) =
      some (none, .unrecognizedCommand) ∧
    see (exec (.new 2#4) { State.reset with cmdTable := otherTable }) (fun t => pktAt t 4) = some 0x01#8 := by
  decide +kernel

theorem witness_DecodeOfEncode : otherTable.Legal ∧ (Instr.new 1#4).WellFormed ∧ (Instr.new 8#4).WellFormed ∧ Instr.wars.WellFormed :=
  ⟨otherTable_legal, by unfold Instr.WellFormed; decide⟩

theorem witness_EncodeOfDecode : decode otherTable (.opWord 0x00000801#32) = .instr (.new 8#4) ∧
    decode otherTable (.opWord 0x0000002D#32) = .instr .getHeader ∧
    decode otherTable (.command 0x04#8) = .instr .warq ∧ decode defaultCmdTable (.command 0xB8#8) = .instr .warq := by decide

theorem witness_LegalTablesDispatch : otherTable.Legal := otherTable_legal

theorem witness_StepRunsPendingOperation :
    let s := inFlight .check 0 State.reset
    s.pending = some ⟨.check, 0, 0, 0, 36⟩ ∧ s.latency = 0 := by decide

theorem witness_CommandWriteAccepts :
    let s := withHost [wr 0 4] State.reset
    s.host = [.write 0x000#14 4 4#32] ∧ s.busy = false ∧ s.pending = none ∧ decodeOp 4#32 = .instr .check := by decide

theorem witness_IllegalWordCompletesAtOnce :
    let s := withHost [wr 0 0] State.reset
    s.host = [.write 0x000#14 4 0#32] ∧ s.busy = false ∧ s.pending = none ∧
      decodeOp 0#32 = .rejected .unassignedOpc := by decide

/-- One state for each clause, at the two ends of the map. -/
theorem witness_AccessesWhileBusy :
    (∀ l ∈ [[wr 0x000 0], [wr 0x23FC 0], [rd 0x004], [rd 0x000], [rd 0x140C]],
      (withHost l (inFlight .check 1 State.reset)).busy = true ∧
      (withHost l (inFlight .check 1 State.reset)).latency ≠ 0 ∧
      (withHost l (inFlight .check 1 State.reset)).host = l ∧ ∀ a ∈ l, a.mapped = true) ∧
    wr 0x000 0 = .write 0x000#14 4 0#32 ∧ rd 0x004 = .read 0x004#14 4 ∧ rd 0x140C = .read 0x140C#14 4 ∧
    0x000#14 ≠ 0x004#14 ∧ 0x140C#14 ≠ 0x004#14 := by decide

theorem witness_WaitPollsStatus :
    let s := withHost [.wait] (inFlight .check 1 State.reset)
    let u := withHost [.wait] State.reset
    s.host = [.wait] ∧ s.latency ≠ 0 ∧ s.busy = true ∧ u.host = [.wait] ∧ u.pending = none ∧ u.busy = false := by
  decide

theorem witness_OperationCompletesAfterLatency :
    let s := withHost [.wait, rd 0x010, wr 0x000 4] (inFlight .check 2 State.reset)
    s.busy = true ∧ s.pending = some ⟨.check, 0, 0, 0, 36⟩ ∧ ∀ a ∈ s.host, a.mapped = true ∧ a.isReset = false := by
  decide

theorem witness_PlatformResetState :
    let s := withHost [.reset] State.reset
    let u := withHost [.reset] (inFlight .check 1 State.reset)
    s.host = [.reset] ∧ s.pending = none ∧ u.host = [.reset] ∧ u.latency ≠ 0 := by decide

/-- The first and the last register of the map. -/
theorem witness_RegisterReads :
    let s := withHost [rd 0x000] State.reset
    let u := withHost [rd 0x02C] State.reset
    let rows : State → List (BitVec 14 × Word) := fun s =>
      [(0x000#14, 0#32), (0x004#14, statusWord s), (0x008#14, s.arg0), (0x00C#14, s.arg1), (0x010#14, s.res0),
        (0x014#14, BitVec.ofNat 32 s.flags.toNat), (0x018#14, BitVec.ofNat 32 s.totlen), (0x01C#14, 0#32),
        (0x020#14, BitVec.ofNat 32 s.buflen), (0x024#14, BitVec.ofNat 32 s.raMax),
        (0x028#14, BitVec.ofNat 32 s.acc.toNat), (0x02C#14, 0x53534D32#32)]
    s.variant = none ∧ (0x000#14, 0#32) ∈ rows s ∧ s.busy = false ∧ s.pending = none ∧ s.host = [.read 0x000#14 4] ∧
    (0x02C#14, 0x53534D32#32) ∈ rows u ∧ u.busy = false ∧ u.pending = none ∧ u.host = [.read 0x02C#14 4] := by decide

theorem witness_RegisterWrites :
    ∀ a ∈ [0x008, 0x00C, 0x020, 0x024, 0x004, 0x02C],
      (withHost [wr a 260] State.reset).busy = false ∧ (withHost [wr a 260] State.reset).pending = none ∧
      (withHost [wr a 260] State.reset).host = [.write (BitVec.ofNat 14 a) 4 260#32] := by decide

theorem witness_PktWindow :
    let s := withHost [rd 0x1000] State.reset
    let u := withHost [wr 0x140C 1] State.reset
    0 ≤ 259 ∧ s.busy = false ∧ s.pending = none ∧ s.host = [.read (BitVec.ofNat 14 (0x1000 + 4 * 0)) 4] ∧
    259 ≤ 259 ∧ u.busy = false ∧ u.pending = none ∧
      u.host = [.write (BitVec.ofNat 14 (0x1000 + 4 * 259)) 4 1#32] := by decide

theorem witness_StgWindow :
    let s := withHost [rd 0x2000] State.reset
    let u := withHost [wr 0x23FC 1] State.reset
    0 ≤ 255 ∧ s.busy = false ∧ s.pending = none ∧ s.host = [.read (BitVec.ofNat 14 (0x2000 + 4 * 0)) 4] ∧
    255 ≤ 255 ∧ u.busy = false ∧ u.pending = none ∧
      u.host = [.write (BitVec.ofNat 14 (0x2000 + 4 * 255)) 4 1#32] := by decide

theorem witness_BusErrorCases :
    let s := withHost [.read 0x1410#14 4] State.reset
    let u := withHost [.write 0x004#14 2 0#32] (inFlight .check 1 State.reset)
    s.pending = none ∧ s.host = [.read 0x1410#14 4] ∧ u.latency ≠ 0 ∧ u.host = [.write 0x004#14 2 0#32] := by decide

theorem witness_OnlyBusErrorsStop : step (withHost [.read 0x030#14 4] State.reset) = .fault .busError := rfl

theorem witness_MappedHostNeverStops :
    ∀ a ∈ (withHost [.wait, rd 0x02C, wr 0x23FC 1, .reset] State.reset).host, a.mapped = true := by decide

theorem witness_LoadbufFillsBuffer :
    ∀ bs ∈ [([] : List Byte), List.replicate 260 0x5A#8],
      (withHost (asmLoadbuf bs ++ [.wait]) State.reset).busy = false ∧
      (withHost (asmLoadbuf bs ++ [.wait]) State.reset).pending = none ∧ bs.length ≤ 260 ∧
      (withHost (asmLoadbuf bs ++ [.wait]) State.reset).host = asmLoadbuf bs ++ [.wait] := by
  intro bs h
  refine ⟨rfl, rfl, ?_, rfl⟩
  simp only [List.mem_cons, List.not_mem_nil, or_false] at h
  rcases h with rfl | rfl
  · decide
  · exact Nat.le_of_eq List.length_replicate

/-- A loaded state with the invariant. -/
theorem loaded_inv : (loaded .initrq 0x3F#6 e1).Inv :=
  ⟨⟨by decide, by decide, fun _ => rfl, rfl⟩, ⟨by decide, by decide, by decide⟩, rfl, ⟨by decide, by decide⟩,
    default_legal⟩

theorem witness_StepKeepsInvariant :
    (loaded .initrq 0x3F#6 e1).Inv ∧ ∃ t, step (loaded .initrq 0x3F#6 e1) = .next t := ⟨loaded_inv, _, rfl⟩

theorem witness_OperationsKeepHostSide : ∃ t, exec (.new 1#4) State.reset = .next t ∧ t.variant ≠ State.reset.variant :=
  ⟨_, rfl, by decide⟩

theorem witness_AccumulatorLaw : 1 ≤ 1 ∧ 1 ≤ 260 ∧ 1 ≤ 260 ∧ 260 ≤ 260 ∧ 8 ≤ 8 ∧
    [2, 0, 1].Perm (List.range (4 - 1)) := by decide

theorem witness_CsumResult : [0#32, 1#32, 260#32, 261#32].map (fun w => (operandArg0 (withArg0 w State.reset)).toNat) =
    [0, 1, 260, 261] := by decide

theorem witness_SingleByteChangeDetected :
    let s := loaded .wars 0x3F#6 e2
    s.variant = some .wars ∧ 6 ≤ s.totlen ∧ s.totlen ≤ 260 ∧ pktAt s (s.totlen - 1) = csum s s.totlen ∧
      0 < s.totlen ∧ 6 < s.totlen ∧ 0x81#8 ≠ pktAt s 0 ∧ 0x7D#8 ≠ pktAt s 6 := by decide

theorem witness_AccWriters : see (exec .csum (withArg0 6#32 (raw e1))) (fun t => t.acc != (raw e1).acc) = some true ∧
    see (exec .check (loaded .wars 0x3F#6 e2)) (fun t => t.acc != 0x00#8) = some true ∧
    see (exec .finish (loaded .initrq 0x1F#6 e1)) (fun t => t.acc != 0x00#8) = some true := by decide

theorem witness_NewBuildsEmptyPacket : decodeOp 0x00000101#32 = .instr (.new 1#4) ∧
    ∀ row ∈ [(1#4, Variant.initrq, 6, 0x1C#6), (8#4, .wars, 7, 0x18#6)],
      row ∈ [(1#4, Variant.initrq, 6, 0x1C#6), (2#4, .initrs, 14, 0x10#6), (3#4, .rbrq, 11, 0x10#6),
        (4#4, .rbrs, 6, 0x18#6), (5#4, .rarq, 7, 0x18#6), (6#4, .rars, 6, 0x18#6), (7#4, .warq, 10, 0x10#6),
        (8#4, .wars, 7, 0x18#6)] := by decide

/-- The clauses of DECODE at the boundaries of BUFLEN and of the length byte. -/
theorem witness_DecodeOutcomes :
    (raw e1).cmdTable.Legal ∧ (raw e1).cmdTable = defaultCmdTable ∧
    operandBuflen (raw (e1.take 5)) < 6 ∧
    (6 ≤ operandBuflen (raw [0x80, 0x10, 0xF0, 0x01, 0x00, 0x40]) ∧
      ∀ v ∈ allVariants, defaultCmdTable.byte v ≠ pktAt (raw [0x80, 0x10, 0xF0, 0x01, 0x00, 0x40]) 4) ∧
    (6 ≤ operandBuflen (raw e1) ∧ (raw e1).cmdTable.byte .initrq = pktAt (raw e1) 4 ∧ 6 ≤ (pktAt (raw e1) 3).toNat + 5 ∧
      (pktAt (raw e1) 3).toNat + 5 ≤ operandBuflen (raw e1)) ∧
    (pktAt (raw [0x80, 0x10, 0xF0, 0x00, 0xBF, 0x40]) 3).toNat + 5 < 6 ∧
    operandBuflen (raw [0x80, 0x10, 0xF0, 0x02, 0xBF, 0x40]) <
      (pktAt (raw [0x80, 0x10, 0xF0, 0x02, 0xBF, 0x40]) 3).toNat + 5 := ⟨default_legal, rfl, by decide⟩

theorem witness_WireVariantsLoad :
    (Instr.wars, Variant.wars, 8) ∈ [(Instr.initrq, Variant.initrq, 1), (.initrs, .initrs, 2), (.rbrq, .rbrq, 3),
      (.rbrs, .rbrs, 4), (.rarq, .rarq, 5), (.rars, .rars, 6), (.warq, .warq, 7), (.wars, .wars, 8)] ∧
    1 ≤ (pktAt (raw e1) 3).toNat ∧ (pktAt (raw e1) 3).toNat + 5 ≤ operandBuflen (raw e1) ∧
    (pktAt (raw [0x80, 0x10, 0xF0, 0x00, 0xBF, 0x40]) 3).toNat = 0 ∧
    operandBuflen (raw [0x80, 0x10, 0xF0, 0x02, 0xBF, 0x40]) <
      (pktAt (raw [0x80, 0x10, 0xF0, 0x02, 0xBF, 0x40]) 3).toNat + 5 := by decide

theorem witness_DecodeRunsDispatchedVariant : 6 ≤ operandBuflen (raw e1) ∧
    decode (raw e1).cmdTable (.command (pktAt (raw e1) 4)) = .instr .initrq := by decide

theorem witness_FinishStamps : (loaded .initrq 0x1F#6 e1).variant = some .initrq ∧ 6 ≤ (loaded .initrq 0x1F#6 e1).totlen ∧
    (loaded .initrq 0x1F#6 e1).totlen ≤ 260 ∧ (loaded .initrq 0x1F#6 e1).flags = 0x1F#6 := by decide

theorem witness_FinishWithoutStamping : State.reset.variant = none ∧
    (loaded .initrq 0x3F#6 e1).variant = some .initrq ∧ (loaded .initrq 0x3F#6 e1).flags = 0x3F#6 ∧
    (loaded .initrq 0x1D#6 e1).flags ≠ 0x3F#6 ∧ (loaded .initrq 0x1D#6 e1).flags ≠ 0x1F#6 := by decide

theorem witness_FinishIsIdempotent : ∃ t, exec .finish (loaded .initrq 0x1F#6 e1) = .next t ∧ t.code = .ok :=
  ⟨_, rfl, rfl⟩

theorem witness_FinishAfterDecodeOnlyClearsRes0 : ∃ t, exec .decode (raw e1) = .next t ∧ t.code = .ok :=
  ⟨_, rfl, by decide⟩

theorem witness_CheckVerdict : State.reset.variant = none ∧ (loaded .wars 0x3F#6 e2).variant = some .wars := by decide

/-- Two states with the same packet and other contents everywhere else that CHECK could look. -/
theorem witness_CheckReadsOnlyThePacket :
    let s := loaded .wars 0x3F#6 e2
    let s' := { withStg [9] 1#32 (loaded .wars 0x18#6 e2) with
      pkt := cells 0 (e2 ++ [0xAA]), buflen := 0, raMax := 1, arg0 := 1#32, res0 := 1#32, acc := 0x01#8, ovr := true,
      result := true, code := .noPacket, epoch := 1, rdata := 1#32 }
    s'.variant = s.variant ∧ s'.totlen = s.totlen ∧ s'.cmdTable = s.cmdTable ∧
      (∀ j, j < s.totlen → pktAt s' j = pktAt s j) ∧ 6 ≤ s.totlen ∧
      ∃ t t', exec .check s = .next t ∧ exec .check s' = .next t' :=
  ⟨rfl, rfl, rfl, by decide, by decide, _, _, rfl, rfl⟩

theorem witness_SetIdentifiers : (withArg0 0xFF#32 (loaded .initrq 0x1C#6 e1)).variant = some .initrq ∧
    (operandArg0 (withArg0 0xFF#32 (loaded .initrq 0x1C#6 e1))).toNat ≤ 0xFF := by decide

theorem witness_SetAddress :
    let s := withArg0 0xFFFFFF#32 (loaded .rbrq 0x10#6 rbrq12)
    let u := withArg0 0x000000#32 (loaded .warq 0x10#6 warq13)
    s.variant = some .rbrq ∧ (Variant.rbrq, 6) ∈ [(Variant.rbrq, 6), (.warq, 5)] ∧ (operandArg0 s).toNat = 0xFFFFFF ∧
      6 + 3 ≤ s.totlen - 1 ∧ s.totlen ≤ 260 ∧
    u.variant = some .warq ∧ (Variant.warq, 5) ∈ [(Variant.rbrq, 6), (.warq, 5)] ∧ (operandArg0 u).toNat = 0 ∧
      5 + 3 ≤ u.totlen - 1 ∧ u.totlen ≤ 260 := by decide

theorem witness_SetCountAndData :
    let s := withArg0 256#32 (loaded .rbrq 0x10#6 rbrq12)
    let u := withArg0 0xFF#32 (loaded .warq 0x10#6 warq13)
    let x := withArg0 0x00#32 (loaded .wars 0x10#6 e2)
    (s.variant = some .rbrq ∧ (operandArg0 s).toNat = 256 ∧ 9 + 1 ≤ s.totlen - 1 ∧ s.totlen ≤ 260) ∧
    (u.variant = some .warq ∧ (operandArg0 u).toNat = 0xFF ∧ 8 + 1 ≤ u.totlen - 1 ∧ u.totlen ≤ 260) ∧
    (x.variant = some .wars ∧ (operandArg0 x).toNat = 0 ∧ 5 + 1 ≤ x.totlen - 1 ∧ x.totlen ≤ 260) := by decide

theorem witness_SetIdentifierStrings :
    let s := withStg [] 3#32 (loaded .initrs 0x10#6 initrs32)
    let u := withStg [] 5#32 (loaded .initrs 0x10#6 initrs32)
    s.variant = some .initrs ∧ s.totlen ≤ 260 ∧ (operandArg1 s).toNat = 3 ∧ 5 + 3 ≤ s.totlen - 1 ∧
    u.variant = some .initrs ∧ u.totlen ≤ 260 ∧ (operandArg1 u).toNat = 5 ∧ 8 + 5 ≤ u.totlen - 1 := by decide

theorem witness_SetSizedFields :
    let s := withStg [] 254#32 (loaded .rbrs 0x18#6 e4)
    let r := withStg [] 1#32 (loaded .rars 0x18#6 rars18)
    let u := withStg [] 36#32 (loaded .rarq 0x18#6 e3)
    let x := withStg [] 246#32 (loaded .initrs 0x10#6 initrs32)
    (s.variant = some .rbrs ∧ (operandArg1 s).toNat = 254) ∧ (r.variant = some .rars ∧ (operandArg1 r).toNat = 1) ∧
    (u.variant = some .rarq ∧ (operandArg1 u).toNat = 36 ∧ 36 ≤ operandRaMax u) ∧
    (x.variant = some .initrs ∧ (operandArg1 x).toNat = 246) := by decide

theorem witness_SetterStateTests : State.reset.variant = none ∧ setterField .setCaps = some .caps ∧
    (loaded .initrq 0x1C#6 e1).variant = some .initrq ∧ Variant.initrq ∉ [Variant.rbrq, .warq] ∧
    Variant.initrq ∉ [Variant.initrs] := by decide

/-- Every operand test at its boundary. -/
theorem witness_SetterOperandTests :
    (loaded .warq 0x10#6 warq13).variant = some .warq ∧
    (operandArg0 (withArg0 0x100#32 (loaded .warq 0x10#6 warq13))).toNat = 0x100 ∧
    (operandArg0 (withArg0 0x1000000#32 (loaded .warq 0x10#6 warq13))).toNat = 0x1000000 ∧
    [0#32, 257#32].map (fun w => (operandArg0 (withArg0 w (loaded .rbrq 0x10#6 rbrq12))).toNat) = [0, 257] ∧
    [0#32, 255#32].map (fun w => (operandArg1 (withStg [] w (loaded .rbrs 0x18#6 e4))).toNat) = [0, 255] ∧
    [0#32, 37#32].map (fun w => (operandArg1 (withStg [] w (loaded .rarq 0x18#6 e3))).toNat) = [0, 37] ∧
    operandRaMax (withStg [] 37#32 (loaded .rarq 0x18#6 e3)) < 37 ∧
    [0#32, 2#32, 4#32, 6#32, 247#32].map (fun w =>
      (operandArg1 (withStg [] w (loaded .initrs 0x10#6 initrs32))).toNat) = [0, 2, 4, 6, 247] := by decide

/-- Packets one byte too short for each field, decoded so. -/
theorem witness_SettersRefuseShortPackets :
    ((loaded .rbrq 0x3F#6 (rbrq12.take 9)).variant = some .rbrq ∧
      (loaded .rbrq 0x3F#6 (rbrq12.take 9)).totlen - 1 < 6 + 3 ∧
      (loaded .rbrq 0x3F#6 (rbrq12.take 10)).totlen - 1 < 9 + 1 ∧
      (operandArg0 (withArg0 1#32 (loaded .rbrq 0x3F#6 (rbrq12.take 9)))).toNat = 1) ∧
    ((loaded .warq 0x3F#6 (warq13.take 8)).totlen - 1 < 5 + 3 ∧
      (loaded .warq 0x3F#6 (warq13.take 9)).totlen - 1 < 8 + 1) ∧
    (loaded .wars 0x3F#6 (e2.take 6)).totlen - 1 < 5 + 1 ∧
    ((loaded .initrs 0x3F#6 (initrs32.take 8)).totlen - 1 < 5 + 3 ∧
      (operandArg1 (withStg [] 3#32 (loaded .initrs 0x3F#6 (initrs32.take 8)))).toNat = 3 ∧
      (loaded .initrs 0x3F#6 (initrs32.take 13)).totlen - 1 < 8 + 5 ∧
      (operandArg1 (withStg [] 5#32 (loaded .initrs 0x3F#6 (initrs32.take 13)))).toNat = 5) := by decide

theorem witness_SettersKeepFramingBytes : setterField .setAddrs = some .addrs ∧
    (loaded .rarq 0x18#6 e3).variant = some .rarq ∧ 6 ≤ (loaded .rarq 0x18#6 e3).totlen ∧
    ∃ t, exec .setAddrs (withStg [1, 2, 3] 1#32 (loaded .rarq 0x18#6 e3)) = .next t :=
  ⟨rfl, rfl, by decide, _, rfl⟩

theorem witness_ChangedPacketIsRestamped : (withArg0 0x18#32 (loaded .initrq 0x3F#6 e1)).Inv ∧
    setterField .setDest = some .dest ∧
    ∃ t, exec .setDest (withArg0 0x18#32 (loaded .initrq 0x3F#6 e1)) = .next t ∧ t.code = .ok ∧
      (withArg0 0x18#32 (loaded .initrq 0x3F#6 e1)).flags = 0x3F#6 ∧
      PacketChanged (withArg0 0x18#32 (loaded .initrq 0x3F#6 e1)) t :=
  ⟨⟨⟨by decide, by decide, fun _ => rfl, rfl⟩, ⟨by decide, by decide, by decide⟩, rfl, ⟨by decide, by decide⟩,
    default_legal⟩, rfl, _, rfl, rfl, rfl, .inr ⟨1, by decide, by decide +kernel⟩⟩

theorem witness_HeaderGetters : State.reset.variant = none ∧ (loaded .rbrs 0x3F#6 e4).variant = some .rbrs ∧
    ∀ s ∈ [loaded .rbrs 0x3F#6 e4], (Instr.getKey, 0x96A) ∈
      [(Instr.getDest, (pktAt s 1).toNat), (.getSrc, (pktAt s 2).toNat), (.getLen, (pktAt s 3).toNat),
        (.getCmd, (pktAt s 4).toNat), (.getChecksum, (pktAt s (s.totlen - 1)).toNat),
        (.getKey, s.totlen * 256 + (pktAt s (s.totlen - 1)).toNat), (.getHeader, (pktAt s 0).toNat)] := by decide

/-- Each clause, the size test at its boundary: 10 bytes hold ADDR and 9 do not. -/
theorem witness_FieldGetters : Instr.getAddr ∈ [Instr.getAddr, .getCount, .getData, .getId3] ∧ State.reset.variant = none ∧
    (loaded .initrq 0x3F#6 e1).variant = some .initrq ∧ Variant.initrq ∉ [Variant.rbrq, .warq] ∧
    6 + 3 ≤ (loaded .rbrq 0x3F#6 (rbrq12.take 10)).totlen - 1 ∧
    (loaded .rbrq 0x3F#6 (rbrq12.take 9)).totlen - 1 < 6 + 3 := by decide

theorem witness_CountGetters : State.reset.variant = none ∧
    (loaded .rarq 0x3F#6 e3).variant = some .rarq ∧ Variant.rarq ∈ [Variant.rarq] ∧
    (loaded .initrq 0x3F#6 e1).variant = some .initrq ∧ Variant.initrq ∉ [Variant.rarq] := by decide

theorem witness_GetReturnsWhatSetStored :
    ∃ t u, exec .setCount (withArg0 256#32 (loaded .rbrq 0x10#6 rbrq12)) = .next t ∧ t.code = .ok ∧
      exec .getCount t = .next u ∧ (loaded .rbrq 0x10#6 rbrq12).totlen ≤ 260 :=
  ⟨_, _, rfl, rfl, rfl, by decide⟩

theorem witness_KeysDecideEquality : ∃ t t', exec .getKey (loaded .rbrs 0x3F#6 e4) = .next t ∧
    exec .getKey (loaded .wars 0x3F#6 e2) = .next t' ∧ (loaded .rbrs 0x3F#6 e4).variant = some .rbrs ∧
    (loaded .wars 0x3F#6 e2).variant = some .wars ∧ (loaded .rbrs 0x3F#6 e4).totlen ≤ 260 ∧
    (loaded .wars 0x3F#6 e2).totlen ≤ 260 := ⟨_, _, rfl, rfl, rfl, rfl, by decide, by decide⟩

theorem witness_OutcomesOfOperations : (Instr.new 8#4).WellFormed ∧ (∃ t, exec (.new 8#4) State.reset = .next t) ∧
    Instr.setId3.WellFormed ∧ ∃ t, exec .setId3 (loaded .initrs 0x10#6 initrs32) = .next t :=
  ⟨by unfold Instr.WellFormed; decide, ⟨_, rfl⟩, trivial, _, rfl⟩

/-- A failing getter, an incomplete FINISH and an unrecognized command byte. -/
theorem witness_FailuresArePrecise :
    see (exec .getAddr State.reset) (fun t => t.code.failing) = some true ∧
    see (exec .finish (loaded .warq 0x11#6 warq13)) (·.code) = some .packetIncomplete ∧
    see (exec .decode (raw [0x80, 0x10, 0xF0, 0x01, 0x00, 0x40])) (·.code) = some .unrecognizedCommand := by decide

/-- A packet under construction: RBRS with its identifiers and data set, ready to finish. -/
theorem witness_NewAndSettersKeepBuild : Variant.rbrs.code = (4#4).toNat ∧
    (∃ t, exec (.new 4#4) State.reset = .next t) ∧ setterField .setDatas = some .datas ∧
    (withStg [1] 1#32 (loaded .rbrs 0x1F#6 e4)).Built .rbrs ∧
    operandRaMax (withStg [1] 1#32 (loaded .rbrs 0x1F#6 e4)) ≤ 84 ∧
    ∃ t, exec .setDatas (withStg [1] 1#32 (loaded .rbrs 0x1F#6 e4)) = .next t :=
  ⟨rfl, ⟨_, rfl⟩, rfl, ⟨rfl, rfl, rfl, rfl, by decide, by decide, .inr rfl, fun _ => rfl⟩, by decide, _, rfl⟩

theorem witness_FinishedBuildPassesCheck : (loaded .rbrs 0x1F#6 e4).Built .rbrs ∧
    ∃ t u, exec .finish (loaded .rbrs 0x1F#6 e4) = .next t ∧ t.code = .ok ∧ exec .check t = .next u :=
  ⟨⟨rfl, rfl, rfl, rfl, by decide, by decide, .inr rfl, fun _ => rfl⟩, _, _, rfl, rfl, rfl⟩

theorem witness_DecodeOfEncodedPacket : (loaded .wars 0x3F#6 e2).cmdTable.Legal ∧ (loaded .wars 0x3F#6 e2).variant = some .wars ∧
    (loaded .wars 0x3F#6 e2).totlen ≤ 260 ∧
    see (exec .check (loaded .wars 0x3F#6 e2)) (fun t => (t.result, t.buflen == t.totlen)) = some (true, true) :=
  ⟨default_legal, by decide⟩

end Sys2Proof.Tests
end

section
/-! PROOFS. How an operation can end, for the statements on failing outcomes (60_exceptions R281): each operation either
ends OK or leaves one of the few failing states named here. -/

namespace Sys2Proof.Machine

/-! ### The ends of an operation that runs no packet constructor -/

/-- How an operation other than DECODE and the wire variants can end: OK, with nothing but STATUS written, or as
FINISH's PacketIncomplete, whose mask goes to RES0 (60_exceptions R281, 41_framer_lifecycle R170). -/
inductive PreciseEnd (s t : State) : Prop
  | ok (hcode : t.code = .ok)
  | failed (c : Code) (ht : t = complete c s)
  | incomplete (mask : Word) (ht : t = complete .packetIncomplete { s with res0 := mask })

theorem PreciseEnd.eq_of_failing {s t : State} (h : PreciseEnd s t) (hfail : t.code.failing = true)
    (hne : t.code ≠ .packetIncomplete) : t = { s with code := t.code, busy := false, pending := none } := by
  cases h with
  | ok hcode => simp [hcode, Code.failing] at hfail
  | failed c ht => subst ht; rfl
  | incomplete mask ht => simp [ht] at hne

theorem PreciseEnd.eq_of_packetIncomplete {s t : State} (h : PreciseEnd s t) (hcode : t.code = .packetIncomplete) :
    t = { s with res0 := t.res0, code := .packetIncomplete, busy := false, pending := none } := by
  cases h with
  | ok hok => simp [hok] at hcode
  | failed c ht =>
    obtain rfl : c = .packetIncomplete := by simpa [ht] using hcode
    subst ht; rfl
  | incomplete mask ht => subst ht; rfl

theorem getAlways_preciseEnd (value : Word) (s : State) : PreciseEnd s (getAlways value s) := by
  rcases getAlways_cases value s with ⟨_, h⟩ | ⟨_, _, h⟩
  · exact .failed _ h
  · exact .ok (by rw [h, complete_code])

theorem getField_preciseEnd (f : Field) (s : State) (value : Slot → Word) : PreciseEnd s (getField f s value) := by
  rcases getField_cases f s value with ⟨c, _, h⟩ | ⟨_, _, _, _, _, h⟩
  · exact .failed c h
  · exact .ok (by rw [h, complete_code])

theorem setter_preciseEnd {i : Instr} {f : Field} {s t : State} (hf : setterField i = some f)
    (h : exec i s = .next t) : PreciseEnd s t := by
  rcases setter_cases hf h with ⟨c, _, ht⟩ | ⟨_, _, _, _, _, _, _, _, ht⟩
  · exact .failed c ht
  · exact .ok (by rw [ht, complete_code])

theorem execNew_preciseEnd {var : BitVec 4} {s t : State} (h : execNew var s = .next t) : PreciseEnd s t := by
  unfold execNew at h
  split at h <;> cases h
  · exact .failed .illegalOp rfl
  · exact .ok rfl

theorem execCsum_preciseEnd {s t : State} (h : execCsum s = .next t) : PreciseEnd s t := by
  simp only [execCsum] at h
  split at h <;> cases h
  · exact .failed .valueOutOfRange rfl
  · exact .ok rfl

theorem execCheck_preciseEnd {s t : State} (h : execCheck s = .next t) : PreciseEnd s t := by
  unfold execCheck at h
  split at h <;> cases h <;> exact .ok rfl

theorem execFinish_preciseEnd {s t : State} (h : execFinish s = .next t) : PreciseEnd s t := by
  unfold execFinish at h
  split at h
  · cases h; exact .failed .noPacket rfl
  · split at h
    · cases h; exact .ok rfl
    · split at h <;> cases h
      · exact .ok rfl
      · exact .incomplete (missingMask s.flags) rfl

/-! ### The ends of the packet constructors -/

/-- DECODE and the wire variants, whose meanings are DECODE's constructors (log 12). -/
def decodingInstrs : List Instr := .decode :: allVariants.map Variant.instr

theorem decodingInstrs_eq :
    decodingInstrs = [.decode, .initrq, .initrs, .rbrq, .rbrs, .rarq, .rars, .warq, .wars] := rfl

theorem mem_decodingInstrs {i : Instr} : i ∈ decodingInstrs ↔ i = .decode ∨ ∃ v : Variant, v.instr = i := by
  simp [decodingInstrs, mem_allVariants]

theorem exec_variant_instr (v : Variant) (s : State) : exec v.instr s = .next (loadPacket v s) := by
  cases v <;> rfl

/-- How DECODE and the wire variants can end: OK, or with no packet and RES0 = 0 (41_framer_lifecycle R163), which is
never PacketIncomplete. -/
inductive DecodeEnd (s t : State) : Prop
  | ok (hcode : t.code = .ok)
  | failed (c : Code) (hc : c ≠ .packetIncomplete) (ht : t = decodeFail c s)

theorem DecodeEnd.eq_of_code_ne_ok {s t : State} (h : DecodeEnd s t) (hne : t.code ≠ .ok) :
    t = { s with
      variant := none, totlen := 0, flags := 0x00#6, res0 := 0#32, code := t.code, busy := false, pending := none } := by
  cases h with
  | ok hcode => exact absurd hcode hne
  | failed c _ ht => subst ht; rfl

theorem DecodeEnd.code_ne_packetIncomplete {s t : State} (h : DecodeEnd s t) : t.code ≠ .packetIncomplete := by
  cases h with
  | ok hcode => simp [hcode]
  | failed c hc ht => subst ht; exact hc

theorem loadPacket_decodeEnd (v : Variant) (s : State) : DecodeEnd s (loadPacket v s) := by
  rcases loadPacket_cases v s with ⟨_, h⟩ | ⟨_, _, h⟩
  · exact .failed .bufferTooShort (by decide) h
  · exact .ok (by rw [h, complete_code])

theorem execDecode_decodeEnd {s t : State} (h : execDecode s = .next t) : DecodeEnd s t := by
  unfold execDecode at h
  split at h
  · cases h; exact .failed .bufferTooShort (by decide) rfl
  · split at h <;> cases h
    · exact .failed .unrecognizedCommand (by decide) rfl
    · exact loadPacket_decodeEnd _ s

/-! ### Every operation -/

theorem exec_decodeEnd {i : Instr} {s t : State} (hi : i ∈ decodingInstrs) (h : exec i s = .next t) :
    DecodeEnd s t := by
  rcases mem_decodingInstrs.mp hi with rfl | ⟨v, rfl⟩
  · exact execDecode_decodeEnd h
  · obtain rfl := Host.Outcome.next.inj ((exec_variant_instr v s).symm.trans h)
    exact loadPacket_decodeEnd v s

theorem exec_preciseEnd {i : Instr} {s t : State} (hi : i ∉ decodingInstrs) (h : exec i s = .next t) :
    PreciseEnd s t := by
  cases i
  case decode | initrq | initrs | rbrq | rbrs | rarq | rars | warq | wars => exact absurd (by decide) hi
  case new var => exact execNew_preciseEnd h
  case finish => exact execFinish_preciseEnd h
  case check => exact execCheck_preciseEnd h
  case csum => exact execCsum_preciseEnd h
  case release => cases h; exact .ok rfl
  case setDest | setSrc | setAddr | setCount | setData | setDatas | setAddrs | setId3 | setId5 | setCaps =>
    exact setter_preciseEnd rfl h
  case getDest | getSrc | getLen | getCmd | getChecksum | getKey | getHeader =>
    cases h; exact getAlways_preciseEnd _ s
  case getAddr | getCount | getData | getDatacount | getAddrcount | getId3 | getCaplen =>
    cases h; exact getField_preciseEnd _ s _

/-- Settles O57: the operations outside DECODE's family end precisely, those of the family lose the packet, and only
FINISH writes RES0 as it fails. -/
theorem failuresArePrecise : Obligations.FailuresArePrecise := by
  unfold Obligations.FailuresArePrecise
  simp only [← decodingInstrs_eq]
  intro i s t h
  refine ⟨fun hfail hne hi => ?_, fun hcode => ?_, fun hi hne => ?_⟩
  · exact (exec_preciseEnd hi h).eq_of_failing hfail hne
  · by_cases hi : i ∈ decodingInstrs
    · exact absurd hcode (exec_decodeEnd hi h).code_ne_packetIncomplete
    · exact (exec_preciseEnd hi h).eq_of_packetIncomplete hcode
  · exact (exec_decodeEnd hi h).eq_of_code_ne_ok hne

end Sys2Proof.Machine
end

section
/-! PROOFS. The rules of the host bus and of a run, one for each kind of action, and the statements on the registers,
the handshake and the bus errors (10_state R22 to R34, 20_memory R63, 70_reset R330 to R333). -/

namespace Sys2Proof.Machine

/-! ### The address map -/

/-- The address of a register (10_state R22). -/
def HostReg.addr : HostReg → BitVec 14
  | .cmd => 0x000#14
  | .status => 0x004#14
  | .arg0 => 0x008#14
  | .arg1 => 0x00C#14
  | .res0 => 0x010#14
  | .flags => 0x014#14
  | .totlen => 0x018#14
  | .variant => 0x01C#14
  | .buflen => 0x020#14
  | .config => 0x024#14
  | .acc => 0x028#14
  | .id => 0x02C#14

theorem locate_reg_addr (r : HostReg) : locate r.addr 4 = some (.reg r) := by cases r <;> rfl

/-- The mapped accesses (20_memory R63, R71). -/
theorem locate_isSome_iff (addr : BitVec 14) (bytes : Nat) :
    (locate addr bytes).isSome = true ↔
      bytes = 4 ∧ addr.toNat % 4 = 0 ∧
        (addr.toNat ≤ 0x02F ∨ (0x1000 ≤ addr.toNat ∧ addr.toNat ≤ 0x140F) ∨
          (0x2000 ≤ addr.toNat ∧ addr.toNat ≤ 0x23FF)) := by
  simp only [locate]
  split
  · simp; omega
  · split
    · simp; omega
    · split
      · next h =>
        have : addr.toNat / 4 < registerMap.length := by simp [registerMap]; omega
        simp [this]; omega
      · split
        · simp; omega
        · split <;> simp <;> omega

theorem registerMap_status : ∀ i < 12, registerMap[i]? = some .status → i = 1 := by decide

/-- STATUS has one address. -/
theorem locate_eq_status {addr : BitVec 14} (h : locate addr 4 = some (.reg .status)) : addr = 0x004#14 := by
  simp only [locate, ne_eq, not_true_eq_false, if_false] at h
  split at h
  · cases h
  · split at h
    · next h4 hlt =>
      have hone : addr.toNat / 4 = 1 := registerMap_status _ (by omega) (by simpa using h)
      exact BitVec.eq_of_toNat_eq (by simp; omega)
    · split at h
      · simp at h
      · split at h <;> simp at h

/-- The word of the PKT window that shows offset `i` (20_memory R64). -/
theorem locate_pkt {i : Nat} (hi : i < 260) : locate (BitVec.ofNat 14 (0x1000 + 4 * i)) 4 = some (.pkt i) := by
  have ha : (BitVec.ofNat 14 (0x1000 + 4 * i)).toNat = 0x1000 + 4 * i := by simp; omega
  simp only [locate, ha]
  rw [if_neg (by simp), if_neg (by omega), if_neg (by omega), if_pos (by omega)]
  congr 2
  omega

/-! ### One rule per kind of action -/

theorem hostStep_wait {s : State} {rest : List HostAction} (h : s.host = .wait :: rest) :
    hostStep s =
      .next (elapseIf s.busy { s with rdata := statusWord s, host := if s.busy then .wait :: rest else rest }) := by
  simp only [hostStep, h]

theorem hostStep_read {s : State} {addr : BitVec 14} {bytes : Nat} {rest : List HostAction} {loc : Location}
    (h : s.host = .read addr bytes :: rest) (hloc : locate addr bytes = some loc) :
    hostStep s = .next (elapseIf s.busy (hostRead addr loc { s with host := rest })) := by
  simp only [hostStep, h, hloc]

theorem hostStep_write {s : State} {addr : BitVec 14} {bytes : Nat} {w : Word} {rest : List HostAction}
    {loc : Location} (h : s.host = .write addr bytes w :: rest) (hloc : locate addr bytes = some loc) :
    hostStep s = .next (elapseIf s.busy (hostWrite w loc { s with host := rest })) := by
  simp only [hostStep, h, hloc]

theorem hostStep_read_fault_iff {s : State} {addr : BitVec 14} {bytes : Nat} {rest : List HostAction}
    (h : s.host = .read addr bytes :: rest) :
    hostStep s = .fault .busError ↔ ¬ (locate addr bytes).isSome = true := by
  cases hloc : locate addr bytes <;> simp [hostStep, h, hloc]

theorem hostStep_write_fault_iff {s : State} {addr : BitVec 14} {bytes : Nat} {w : Word} {rest : List HostAction}
    (h : s.host = .write addr bytes w :: rest) :
    hostStep s = .fault .busError ↔ ¬ (locate addr bytes).isSome = true := by
  cases hloc : locate addr bytes <;> simp [hostStep, h, hloc]

/-! ### Accesses to an idle block -/

theorem step_read_idle {s : State} {addr : BitVec 14} {rest : List HostAction} {loc : Location}
    (hb : s.busy = false) (hp : s.pending = none) (h : s.host = .read addr 4 :: rest)
    (hloc : locate addr 4 = some loc) :
    step s = .next { s with host := rest, rdata := readLoc { s with host := rest } loc } := by
  rw [step_eq_hostStep (.inl hp), hostStep_read h hloc]
  simp [hostRead, elapseIf, hb]

theorem step_write_idle {s : State} {addr : BitVec 14} {w : Word} {rest : List HostAction} {loc : Location}
    (hb : s.busy = false) (hp : s.pending = none) (h : s.host = .write addr 4 w :: rest)
    (hloc : locate addr 4 = some loc) :
    step s = .next (writeLoc w { s with host := rest } loc) := by
  rw [step_eq_hostStep (.inl hp), hostStep_write h hloc]
  simp [hostWrite, elapseIf, hb]

theorem step_readReg {s : State} {rest : List HostAction} (r : HostReg) (hb : s.busy = false)
    (hp : s.pending = none) (h : s.host = .read r.addr 4 :: rest) :
    step s = .next { s with host := rest, rdata := readReg s r } := by
  rw [step_read_idle hb hp h (locate_reg_addr r)]
  cases r <;> rfl

theorem step_writeReg {s : State} {w : Word} {rest : List HostAction} (r : HostReg) (hb : s.busy = false)
    (hp : s.pending = none) (h : s.host = .write r.addr 4 w :: rest) :
    step s = .next (writeReg w { s with host := rest } r) :=
  step_write_idle hb hp h (locate_reg_addr r)

theorem writeBuflen_eq (w : Word) (s : State) :
    writeBuflen w s = { s with buflen := if w.toNat ≤ 260 then w.toNat else s.buflen } := by
  unfold writeBuflen Config.maxTotal
  split <;> rfl

theorem writeConfig_eq (w : Word) (s : State) :
    writeConfig w s = { s with
      raMax := if 1 ≤ w.toNat % 128 ∧ w.toNat % 128 ≤ 84 then w.toNat % 128 else s.raMax } := by
  have hv : (w.extractLsb' 0 7).toNat = w.toNat % 128 := by simp
  simp only [writeConfig, Config.raMaxCeil, hv]
  split <;> rfl

/-- The registers that ignore a write (10_state R22). -/
theorem writeReg_readOnly {r : HostReg} (hr : r ∈ [HostReg.status, .res0, .flags, .totlen, .variant, .acc, .id])
    (w : Word) (s : State) : writeReg w s r = s := by
  cases r
  case cmd | arg0 | arg1 | buflen | config => exact absurd hr (by decide)
  all_goals rfl

theorem variantCode_eq (s : State) : variantCode s = match s.variant with
    | none => 0 | some .initrq => 1 | some .initrs => 2 | some .rbrq => 3 | some .rbrs => 4
    | some .rarq => 5 | some .rars => 6 | some .warq => 7 | some .wars => 8 := by
  unfold variantCode
  cases s.variant with
  | none => rfl
  | some v => cases v <;> rfl

/-- The rows of the register map as the reads show them (10_state R22). -/
theorem registerMap_reads (s : State) :
    registerMap.map (fun r => (r.addr, readReg s r)) =
      [(0x000#14, 0#32), (0x004#14, statusWord s), (0x008#14, s.arg0), (0x00C#14, s.arg1),
      (0x010#14, s.res0), (0x014#14, BitVec.ofNat 32 s.flags.toNat), (0x018#14, BitVec.ofNat 32 s.totlen),
      (0x01C#14, BitVec.ofNat 32 (variantCode s)),
      (0x020#14, BitVec.ofNat 32 s.buflen), (0x024#14, BitVec.ofNat 32 s.raMax),
      (0x028#14, BitVec.ofNat 32 s.acc.toNat), (0x02C#14, 0x53534D32#32)] := by
  simp only [BitVec.ofNat_toNat]
  rfl

/-- Settles O15: each row is a register's address and word, and one rule reads them all. -/
theorem registerReads : Obligations.RegisterReads := by
  intro s rest row hrow hb hp h
  have hmap : row ∈ registerMap.map fun r => (r.addr, readReg s r) := by
    rw [registerMap_reads, variantCode_eq]
    exact hrow
  obtain ⟨r, _, rfl⟩ := List.mem_map.mp hmap
  exact step_readReg r hb hp h

/-- Settles O16: the rule of an idle register write, at each register. -/
theorem registerWrites : Obligations.RegisterWrites := by
  intro s addr w rest hb hp h
  refine ⟨?_, ?_, ?_, ?_, fun hro => ?_⟩
  · rintro rfl
    exact step_writeReg .arg0 hb hp h
  · rintro rfl
    exact step_writeReg .arg1 hb hp h
  · rintro rfl
    rw [step_writeReg .buflen hb hp h, writeReg, writeBuflen_eq]
  · rintro rfl
    rw [step_writeReg .config hb hp h, writeReg, writeConfig_eq]
  · change addr ∈ [HostReg.status, .res0, .flags, .totlen, .variant, .acc, .id].map HostReg.addr at hro
    obtain ⟨r, hr, rfl⟩ := List.mem_map.mp hro
    rw [step_writeReg r hb hp h, writeReg_readOnly hr]

/-- Settles O7: a write to CMD on the idle block, whose word decodes. -/
theorem commandWriteAccepts : Obligations.CommandWriteAccepts := by
  intro s w i rest h hb hp hdec
  rw [step_writeReg .cmd hb hp h, writeReg, writeCmd, hdec]
  rfl

/-- Settles O19: a step that completes no operation is the access, which faults where `locate` answers nothing. -/
theorem busErrorCases : Obligations.BusErrorCases := by
  intro s addr bytes w rest hidle hhost
  have hfault : hostStep s = .fault .busError ↔ ¬ (locate addr bytes).isSome = true :=
    hhost.elim hostStep_read_fault_iff hostStep_write_fault_iff
  rw [step_eq_hostStep hidle, hfault, locate_isSome_iff]
  omega

/-! ### Accesses while an operation is in flight -/

theorem hostStep_write_busy {s : State} {addr : BitVec 14} {bytes : Nat} {w : Word} {rest : List HostAction}
    {loc : Location} (hb : s.busy = true) (h : s.host = .write addr bytes w :: rest)
    (hloc : locate addr bytes = some loc) :
    hostStep s = .next { s with host := rest, ovr := true, latency := s.latency - 1 } := by
  rw [hostStep_write h hloc, hostWrite, if_pos hb, elapseIf_eq, if_pos hb]

theorem hostStep_read_status {s : State} {rest : List HostAction} (hb : s.busy = true)
    (h : s.host = .read 0x004#14 4 :: rest) :
    hostStep s = .next { s with host := rest, rdata := statusWord s, latency := s.latency - 1 } := by
  rw [hostStep_read h (locate_reg_addr .status), hostRead, if_neg (by simp), elapseIf_eq, if_pos hb]
  rfl

theorem hostStep_read_busy {s : State} {addr : BitVec 14} {bytes : Nat} {rest : List HostAction} {loc : Location}
    (hb : s.busy = true) (h : s.host = .read addr bytes :: rest) (hloc : locate addr bytes = some loc)
    (hne : loc ≠ .reg .status) :
    hostStep s = .next { s with
      host := rest, rdata := Config.busyRead addr s.draws, draws := s.draws + 1, latency := s.latency - 1 } := by
  rw [hostStep_read h hloc, hostRead, if_pos ⟨hb, hne⟩, elapseIf_eq, if_pos hb]

/-- Settles O9: the three kinds of access on the busy block, each with its step of the latency. -/
theorem accessesWhileBusy : Obligations.AccessesWhileBusy := by
  intro s addr w rest hb hl
  rw [step_eq_hostStep (.inr hl)]
  refine ⟨fun h hm => ?_, hostStep_read_status hb, fun h hne hm => ?_⟩
  · obtain ⟨loc, hloc⟩ := Option.isSome_iff_exists.mp hm
    exact hostStep_write_busy hb h hloc
  · obtain ⟨loc, hloc⟩ := Option.isSome_iff_exists.mp hm
    exact hostStep_read_busy hb h hloc fun he => hne (locate_eq_status (he ▸ hloc))

/-- Settles O10: WAIT stays first exactly while BUSY = 1. -/
theorem waitPollsStatus : Obligations.WaitPollsStatus := by
  intro s rest h hidle
  rw [step_eq_hostStep hidle, hostStep_wait h]
  refine ⟨fun hb => ?_, fun hb => ?_⟩
  · simp [hb, elapseIf, elapse, h]
  · simp [hb, elapseIf]

/-! ### The operation in flight -/

theorem step_of_pending {s : State} {p : Pending} (hp : s.pending = some p) (hl : s.latency = 0) :
    step s = exec p.op s := by simp [step, completing, hp, hl]

/-- Settles O6. -/
theorem stepRunsPendingOperation : Obligations.StepRunsPendingOperation :=
  fun _ _ hp hl => step_of_pending hp hl

/-- `u` is `s` but for what goes by while an operation is in flight: the latency, OVR and what the Host holds. -/
def SameBlock (s u : State) : Prop :=
  u = { s with latency := u.latency, ovr := u.ovr, host := u.host, rdata := u.rdata, draws := u.draws }

theorem SameBlock.trans {s u t : State} (hsu : SameBlock s u) (hut : SameBlock u t) : SameBlock s t := by
  rw [SameBlock, hsu] at hut
  exact hut

theorem SameBlock.busy {s u : State} (h : SameBlock s u) : u.busy = s.busy := by rw [h]

theorem SameBlock.pending {s u : State} (h : SameBlock s u) : u.pending = s.pending := by rw [h]

/-- A step of a busy block whose operation needs more time: one step of the latency goes by. -/
theorem step_busy {s : State} (hb : s.busy = true) (hl : s.latency ≠ 0)
    (hh : ∀ a ∈ s.host, a.mapped = true ∧ a.isReset = false) :
    ∃ t, step s = .next t ∧ SameBlock s t ∧ t.latency = s.latency - 1 ∧ ∀ a ∈ t.host, a ∈ s.host := by
  rw [step_eq_hostStep (.inr hl)]
  cases hhost : s.host with
  | nil => exact ⟨elapse s, by simp [hostStep, hhost, hb, elapseIf], rfl, rfl, by simp [hhost]⟩
  | cons a rest =>
    obtain ⟨hm, hr⟩ := hh a (by simp [hhost])
    cases a with
    | reset => cases hr
    | wait =>
      rw [hostStep_wait hhost, elapseIf_eq, if_pos hb, if_pos hb]
      exact ⟨_, rfl, rfl, rfl, fun _ => id⟩
    | write addr bytes w =>
      obtain ⟨loc, hloc⟩ := Option.isSome_iff_exists.mp hm
      exact ⟨_, hostStep_write_busy hb hhost hloc, rfl, rfl, fun _ => List.mem_cons_of_mem _⟩
    | read addr bytes =>
      obtain ⟨loc, hloc⟩ := Option.isSome_iff_exists.mp hm
      rw [hostStep_read hhost hloc, elapseIf_eq, if_pos hb]
      refine ⟨_, rfl, ?_, by simp, fun a => by simpa using List.mem_cons_of_mem _⟩
      unfold hostRead
      split <;> rfl

theorem run_one (s : State) : Host.Core.run Sys2Proof.core 1 s = step s := by
  change _ = Sys2Proof.core.step s
  simp only [Host.Core.run]
  cases Sys2Proof.core.step s <;> rfl

/-- The run of the latency's steps, and the step after it: by induction on the latency. -/
theorem run_latency {p : Pending} (n : Nat) {s : State} (hl : s.latency = n) (hb : s.busy = true)
    (hp : s.pending = some p) (hh : ∀ a ∈ s.host, a.mapped = true ∧ a.isReset = false) :
    ∃ u : State, Host.Core.run Sys2Proof.core n s = .next u ∧ SameBlock s u ∧ u.latency = 0 ∧
      Host.Core.run Sys2Proof.core (n + 1) s = exec p.op u := by
  induction n generalizing s with
  | zero => exact ⟨s, rfl, rfl, hl, (run_one s).trans (step_of_pending hp hl)⟩
  | succ n ih =>
    obtain ⟨t, ht, hst, htl, hsub⟩ := step_busy hb (by omega) hh
    obtain ⟨u, hu, htu, hul, hexec⟩ :=
      ih (by omega) (hst.busy ▸ hb) (hst.pending ▸ hp) fun a ha => hh a (hsub a ha)
    exact ⟨u, (run_succ n ht).trans hu, hst.trans htu, hul, (run_succ (n + 1) ht).trans hexec⟩

/-- Settles O11: the run of the latency, its end state written with latency 0. -/
theorem operationCompletesAfterLatency : Obligations.OperationCompletesAfterLatency := by
  intro s p hb hp hh
  obtain ⟨u, hu, hsame, hl, hexec⟩ := run_latency s.latency rfl hb hp hh
  exact ⟨u, hu, hl ▸ hsame, hexec⟩

/-! ### LOADBUF -/

theorem step_write_pkt {s : State} {i : Nat} {w : Word} {rest : List HostAction} (hi : i < 260)
    (hb : s.busy = false) (hp : s.pending = none) (h : s.host = wr (0x1000 + 4 * i) w :: rest) :
    step s = .next (setPkt i (w.extractLsb' 0 8) { s with host := rest }) :=
  step_write_idle hb hp h (locate_pkt hi)

/-- Writes to consecutive words of the PKT window store their bytes, one step each (20_memory R64). -/
theorem run_wrBytes_pkt (bs : List Byte) {s : State} {i : Nat} {rest : List HostAction} (hlen : i + bs.length ≤ 260)
    (hb : s.busy = false) (hp : s.pending = none) (h : s.host = wrBytes (0x1000 + 4 * i) bs ++ rest) :
    ∃ t : State, (∀ k, Host.Core.run Sys2Proof.core (bs.length + k) s = Host.Core.run Sys2Proof.core k t) ∧
      t = { s with host := rest, pkt := t.pkt } ∧
      ∀ j, pktAt t j = if i ≤ j ∧ j < i + bs.length then bs.getD (j - i) 0x00#8 else pktAt s j := by
  induction bs generalizing s i with
  | nil =>
    refine ⟨s, by simp, by rw [← show s.host = rest from h], fun j => ?_⟩
    rw [if_neg (by simp)]
  | cons b bs ih =>
    simp only [List.length_cons] at hlen
    have hbyte : (b.setWidth 32).extractLsb' 0 8 = b := by
      have hlt : b.toNat < 256 := b.isLt
      exact BitVec.eq_of_toNat_eq (by simp; omega)
    have hstep := step_write_pkt (by omega) hb hp h
    rw [hbyte] at hstep
    obtain ⟨t, hrun, ht, hread⟩ := ih (s := setPkt i b { s with host := wrBytes (0x1000 + 4 * (i + 1)) bs ++ rest })
      (i := i + 1) (by omega) hb hp rfl
    refine ⟨t, fun k => ?_, ht, fun j => ?_⟩
    · rw [List.length_cons, Nat.add_right_comm, run_succ _ hstep]
      exact hrun k
    · have hkeep : pktAt { s with host := wrBytes (0x1000 + 4 * (i + 1)) bs ++ rest } j = pktAt s j :=
        pktAt_congr rfl rfl j
      rw [hread, pktAt_setPkt, hkeep]
      rcases Nat.lt_trichotomy j i with hj | rfl | hj
      · rw [if_neg (by omega), if_neg (by omega), if_neg (by omega)]
      · have hlt : j < j + (b :: bs).length := Nat.lt_add_of_pos_right (Nat.succ_pos _)
        rw [if_neg (by omega), if_pos ⟨rfl, by omega⟩, if_pos ⟨Nat.le_refl j, hlt⟩, Nat.sub_self, List.getD_cons_zero]
      · obtain ⟨d, rfl⟩ : ∃ d, j = i + 1 + d := ⟨j - (i + 1), by omega⟩
        simp [show i + 1 + d - i = d + 1 by omega, show i ≤ i + 1 + d by omega, show i + 1 + d ≠ i by omega,
          show i + (bs.length + 1) = i + 1 + bs.length by omega]

/-- Settles O22: the window's writes, and then the one of BUFLEN. -/
theorem loadbufFillsBuffer : Obligations.LoadbufFillsBuffer := by
  intro s bs rest hb hp hlen h
  have hw : (BitVec.ofNat 32 bs.length).toNat = bs.length := by simp; omega
  rw [asmLoadbuf, List.append_assoc] at h
  obtain ⟨t, hrun, ht, hread⟩ := run_wrBytes_pkt bs (i := 0) (by omega) hb hp h
  have hlast : step t = .next { t with host := rest, buflen := bs.length } := by
    rw [step_writeReg (w := BitVec.ofNat 32 bs.length) (rest := rest) .buflen (by rw [ht, hb]) (by rw [ht, hp])
      (by rw [ht]; rfl), writeReg, writeBuflen_eq, hw, if_pos hlen]
  refine ⟨_, (hrun 1).trans (run_succ 0 hlast), ?_, fun j => ?_⟩
  · show { t with host := rest, buflen := bs.length } = _
    rw [ht]
  · refine (pktAt_congr rfl rfl j).trans ((hread j).trans ?_)
    simp

end Sys2Proof.Machine
end

section
/-! PROOFS. The STATUS word and the verdict of CHECK: what each of them shows of the state (10_state R24,
41_framer_lifecycle R174 to R176). -/

namespace Sys2Proof.Machine

/-! ### The STATUS word -/

theorem getLsbD_bitAt {k : Nat} (hk : k < 32) (b : Bool) (i : Nat) :
    (bitAt k b).getLsbD i = (b && decide (i = k)) := by
  cases b
  · simp [bitAt]
  · rw [Bool.eq_iff_iff]
    simp [bitAt]
    omega

theorem code_number_lt (c : Code) : c.number < 16 := by cases c <;> decide

/-- Bits [3:0] of the STATUS word: BUSY, OVR, RESULT and VALID (10_state R24). -/
def statusBits (s : State) : Word :=
  bitAt 0 s.busy ||| bitAt 1 s.ovr ||| bitAt 2 s.result ||| bitAt 3 s.variant.isSome

theorem statusBits_toNat_lt (s : State) : (statusBits s).toNat < 16 := by
  have hbit : ∀ k < 4, ∀ b, (bitAt k b).toNat < 2 ^ 4 := by decide
  simp only [statusBits, BitVec.toNat_or]
  exact Nat.or_lt_two_pow (Nat.or_lt_two_pow (Nat.or_lt_two_pow (hbit 0 (by decide) _) (hbit 1 (by decide) _))
    (hbit 2 (by decide) _)) (hbit 3 (by decide) _)

/-- The two parts of the STATUS word do not overlap. -/
theorem statusWord_toNat (s : State) : (statusWord s).toNat = s.code.number * 256 + (statusBits s).toNat := by
  have hc := code_number_lt s.code
  have hlow := statusBits_toNat_lt s
  have hcode : (BitVec.ofNat 32 s.code.number <<< 8).toNat = s.code.number <<< 8 := by
    simp [Nat.shiftLeft_eq]
    omega
  calc (statusWord s).toNat = (statusBits s).toNat ||| s.code.number <<< 8 := by
        rw [← hcode, ← BitVec.toNat_or]; rfl
    _ = s.code.number <<< 8 + (statusBits s).toNat := by
        rw [Nat.or_comm, Nat.shiftLeft_add_eq_or_of_lt (by omega)]
    _ = s.code.number * 256 + (statusBits s).toNat := by rw [Nat.shiftLeft_eq]

theorem statusWord_getLsbD {i : Nat} (hi : i < 8) (s : State) :
    (statusWord s).getLsbD i = (s.busy && decide (i = 0) || s.ovr && decide (i = 1) || s.result && decide (i = 2) ||
      s.variant.isSome && decide (i = 3)) := by
  simp [statusWord, getLsbD_bitAt, hi]

/-- Settles O14: the single bits from the low part, the fields from the sum of the two parts. -/
theorem statusWordLayout : Obligations.StatusWordLayout := by
  intro s
  have hsum := statusWord_toNat s
  have hlow := statusBits_toNat_lt s
  have hc := code_number_lt s.code
  refine ⟨?_, ?_, ?_, ?_, by omega, by omega, by omega⟩
  · rw [statusWord_getLsbD (by decide)]
    simp
  · rw [statusWord_getLsbD (by decide)]
    simp
  · rw [statusWord_getLsbD (by decide)]
    simp
  · rw [statusWord_getLsbD (by decide)]
    simp [Option.isSome_iff_ne_none]

/-! ### CHECK -/

/-- The verdict reads TOTLEN and the bytes of a packet of at least 6 bytes. -/
theorem verdict_congr {s s' : State} (htot : s'.totlen = s.totlen)
    (hpkt : ∀ j, j < s.totlen → pktAt s' j = pktAt s j) (h6 : 6 ≤ s.totlen) (t : CmdTable) (v : Variant) (sum : Byte) :
    verdict t v sum s' = verdict t v sum s := by
  simp only [verdict, htot, hpkt 0 (by omega), hpkt 1 (by omega), hpkt 2 (by omega), hpkt 3 (by omega),
    hpkt 4 (by omega), hpkt (s.totlen - 1) (by omega)]

theorem execCheck_none {s : State} (hv : s.variant = none) :
    execCheck s = .next (complete .ok { s with res0 := 0#32, result := false }) := by simp [execCheck, hv]

theorem execCheck_some {s : State} {v : Variant} (hv : s.variant = some v) :
    execCheck s =
      .next (complete .ok { accumulate s.totlen s with
        res0 := (verdict s.cmdTable v (accLoop s (s.totlen - 1)) s).word,
        result := (verdict s.cmdTable v (accLoop s (s.totlen - 1)) s).all }) := by simp [execCheck, hv]

/-- Settles O39: the accumulator and the verdict read the same bytes on both states. -/
theorem checkReadsOnlyThePacket : Obligations.CheckReadsOnlyThePacket := by
  intro s s' t t' hvar htot htable hpkt h6 h h'
  change execCheck s = _ at h
  change execCheck s' = _ at h'
  cases hv : s.variant with
  | none =>
    rw [execCheck_none hv] at h
    rw [execCheck_none (hvar.trans hv)] at h'
    cases h
    cases h'
    simp
  | some v =>
    have hlen : 6 ≤ s.totlen := h6 (by simp [hv])
    have hacc : accLoop s' (s.totlen - 1) = accLoop s (s.totlen - 1) := accLoop_congr fun j hj => hpkt j (by omega)
    rw [execCheck_some hv] at h
    rw [execCheck_some (hvar.trans hv), verdict_congr htot hpkt hlen, htot, htable, hacc] at h'
    cases h
    cases h'
    simp [hacc]

end Sys2Proof.Machine
end

section
/-! PROOFS. All that the operations can do, said once, and what follows for every one of them: what it leaves alone, who
writes ACC, and the invariant of the machine, which the actions of the Host keep too (10_state R20 to R41). -/

namespace Sys2Proof.Machine

/-! ### The states an operation can end in -/

/-- The state that the operation leaves: a failing outcome and nothing else, a word in RES0, or what its own family
writes. -/
inductive OperationEnd (i : Instr) (s : State) : State → Prop
  | failed (c : Code) : OperationEnd i s (complete c s)
  | answered (c : Code) (w : Word) : OperationEnd i s (complete c { s with res0 := w })
  | summed (n : Nat) (w : Word) (hi : i = .csum) : OperationEnd i s (complete .ok { accumulate n s with res0 := w })
  | checkedNone (hi : i = .check) : OperationEnd i s (complete .ok { s with res0 := 0#32, result := false })
  | checked (w : Word) (r : Bool) (hi : i = .check) (hv : s.variant ≠ none) :
      OperationEnd i s (complete .ok { accumulate s.totlen s with res0 := w, result := r })
  | stamped (hi : i = .finish) (hv : s.variant ≠ none) (hflags : s.flags = allButChecksum) :
      OperationEnd i s (complete .ok { stampChecksum (stampLength s) with flags := allOk, res0 := 0#32 })
  | created (var : BitVec 4) (v : Variant) (hi : i = .new var) :
      OperationEnd i s (complete .ok (newPacket s.cmdTable v s))
  | released (hi : i = .release) : OperationEnd i s (complete .ok (unload s))
  | undecoded (c : Code) (hi : i ∈ decodingInstrs) : OperationEnd i s (decodeFail c s)
  | loaded (v : Variant) (hi : i ∈ decodingInstrs) (hlen : 6 ≤ wireLength s) :
      OperationEnd i s (complete .ok
        { s with variant := some v, totlen := wireLength s, flags := allOk, res0 := BitVec.ofNat 32 v.code })
  | committed (f : Field) (v : Variant) (slot : Slot) (n : Nat) (bs : List Byte) (hv : s.variant = some v)
      (hslot : fieldSlot v f = some slot) (hshape : SetterShape f slot n bs s) :
      OperationEnd i s (complete .ok (commit slot.flag n slot.off bs s))

theorem getAlways_operationEnd (i : Instr) (value : Word) (s : State) : OperationEnd i s (getAlways value s) := by
  rcases getAlways_cases value s with ⟨_, h⟩ | ⟨_, _, h⟩
  · exact h ▸ .failed _
  · exact h ▸ .answered _ _

theorem getField_operationEnd (i : Instr) (f : Field) (s : State) (value : Slot → Word) :
    OperationEnd i s (getField f s value) := by
  rcases getField_cases f s value with ⟨c, _, h⟩ | ⟨_, _, _, _, _, h⟩
  · exact h ▸ .failed _
  · exact h ▸ .answered _ _

theorem setter_operationEnd {i : Instr} {f : Field} {s t : State} (hf : setterField i = some f)
    (h : exec i s = .next t) : OperationEnd i s t := by
  rcases setter_cases hf h with ⟨c, _, rfl⟩ | ⟨v, slot, n, bs, hv, hslot, _, hshape, rfl⟩
  · exact .failed c
  · exact .committed f v slot n bs hv hslot hshape

theorem execNew_operationEnd {var : BitVec 4} {s t : State} (h : execNew var s = .next t) :
    OperationEnd (.new var) s t := by
  unfold execNew at h
  split at h <;> cases h
  · exact .failed .illegalOp
  · exact .created var _ rfl

theorem execCsum_operationEnd {s t : State} (h : execCsum s = .next t) : OperationEnd .csum s t := by
  simp only [execCsum] at h
  split at h <;> cases h
  · exact .failed .valueOutOfRange
  · exact .summed _ _ rfl

theorem execCheck_operationEnd {s t : State} (h : execCheck s = .next t) : OperationEnd .check s t := by
  cases hv : s.variant with
  | none =>
    rw [execCheck_none hv] at h
    cases h
    exact .checkedNone rfl
  | some v =>
    rw [execCheck_some hv] at h
    cases h
    exact .checked _ _ rfl (by simp [hv])

theorem execFinish_operationEnd {s t : State} (h : execFinish s = .next t) : OperationEnd .finish s t := by
  unfold execFinish at h
  split at h
  · cases h
    exact .failed .noPacket
  · next v hv =>
    split at h
    · cases h
      exact .answered .ok _
    · split at h <;> cases h
      · next hflags => exact .stamped rfl (by simp [hv]) hflags
      · exact .answered .packetIncomplete _

theorem loadPacket_operationEnd {i : Instr} (hi : i ∈ decodingInstrs) (v : Variant) (s : State) :
    OperationEnd i s (loadPacket v s) := by
  rcases loadPacket_cases v s with ⟨_, h⟩ | ⟨hlen, _, h⟩
  · exact h ▸ .undecoded _ hi
  · exact h ▸ .loaded v hi hlen

theorem execDecode_operationEnd {s t : State} (h : execDecode s = .next t) : OperationEnd .decode s t := by
  have hi : Instr.decode ∈ decodingInstrs := by decide
  unfold execDecode at h
  split at h
  · cases h
    exact .undecoded .bufferTooShort hi
  · split at h <;> cases h
    · exact .undecoded .unrecognizedCommand hi
    · exact loadPacket_operationEnd hi _ s

theorem exec_operationEnd {i : Instr} {s t : State} (h : exec i s = .next t) : OperationEnd i s t := by
  cases i
  case new var => exact execNew_operationEnd h
  case decode => exact execDecode_operationEnd h
  case finish => exact execFinish_operationEnd h
  case check => exact execCheck_operationEnd h
  case csum => exact execCsum_operationEnd h
  case release => cases h; exact .released rfl
  case setDest | setSrc | setAddr | setCount | setData | setDatas | setAddrs | setId3 | setId5 | setCaps =>
    exact setter_operationEnd rfl h
  case getDest | getSrc | getLen | getCmd | getChecksum | getKey | getHeader =>
    cases h; exact getAlways_operationEnd _ _ s
  case getAddr | getCount | getData | getDatacount | getAddrcount | getId3 | getCaplen =>
    cases h; exact getField_operationEnd _ _ s _
  case initrq | initrs | rbrq | rbrs | rarq | rars | warq | wars =>
    cases h; exact loadPacket_operationEnd (by decide) _ s

/-! ### What every operation leaves alone -/

theorem OperationEnd.keepsHostSide {i : Instr} {s t : State} (h : OperationEnd i s t) : KeepsHostSide s t := by
  cases h <;> exact ⟨rfl, rfl, rfl, rfl, rfl, rfl, rfl, rfl, rfl, rfl, rfl, rfl⟩

theorem OperationEnd.endedWith {i : Instr} {s t : State} (h : OperationEnd i s t) : EndedWith t.code t := by
  cases h <;> exact ⟨rfl, rfl, rfl⟩

theorem OperationEnd.variant_writer {i : Instr} {s t : State} (h : OperationEnd i s t) (hne : t.variant ≠ s.variant) :
    (∃ var, i = .new var) ∨ i = .release ∨ i ∈ decodingInstrs := by
  cases h with
  | created var _ hi => exact .inl ⟨var, hi⟩
  | released hi => exact .inr (.inl hi)
  | undecoded _ hi => exact .inr (.inr hi)
  | loaded _ hi => exact .inr (.inr hi)
  | failed | answered | summed | checkedNone | checked | stamped | committed => exact absurd rfl hne

theorem OperationEnd.acc_writer {i : Instr} {s t : State} (h : OperationEnd i s t) (hne : t.acc ≠ s.acc) :
    t.code = .ok ∧
      (i = .csum ∨ (i = .finish ∧ s.variant ≠ none ∧ s.flags = 0x1F#6) ∨ (i = .check ∧ s.variant ≠ none)) := by
  cases h with
  | summed _ _ hi => exact ⟨rfl, .inl hi⟩
  | stamped hi hv hflags => exact ⟨rfl, .inr (.inl ⟨hi, hv, hflags⟩)⟩
  | checked _ _ hi hv => exact ⟨rfl, .inr (.inr ⟨hi, hv⟩)⟩
  | failed | answered | checkedNone | created | released | undecoded | loaded | committed => exact absurd rfl hne

/-- Settles O25: from the states an operation can end in. -/
theorem operationsKeepHostSide : Obligations.OperationsKeepHostSide := by
  intro i s t h
  have hend := exec_operationEnd h
  refine ⟨hend.keepsHostSide, hend.endedWith, fun hne => (hend.variant_writer hne).imp_right ?_⟩
  rintro (rfl | hi)
  · exact .tail _ (.head _)
  · rcases List.mem_cons.mp hi with rfl | hi
    · exact .head _
    · exact .tail _ (.tail _ hi)

/-- Settles O29: from the states an operation can end in. -/
theorem accWriters : Obligations.AccWriters := fun _ _ _ h hne => (exec_operationEnd h).acc_writer hne

/-! ### The flags of a loaded packet -/

/-- The flags that the packet invariant admits on a packet `v` (10_state R37). -/
def FlagsInv (v : Variant) (flags : BitVec 6) : Prop :=
  (flags &&& Flag.cs.mask ≠ 0#6 → flags = allOk) ∧ flags &&& preset v = preset v

theorem State.PacketInv.of_some {s : State} {v : Variant} (h : s.PacketInv) (hv : s.variant = some v) :
    6 ≤ s.totlen ∧ s.totlen ≤ 260 ∧ FlagsInv v s.flags := by
  simpa only [State.PacketInv, hv, FlagsInv] using h

theorem packetInv_of_some {s : State} {v : Variant} (hv : s.variant = some v) (h6 : 6 ≤ s.totlen)
    (h260 : s.totlen ≤ 260) (hflags : FlagsInv v s.flags) : s.PacketInv := by
  simpa only [State.PacketInv, hv, FlagsInv] using And.intro h6 ⟨h260, hflags⟩

theorem flagsInv_preset (v : Variant) : FlagsInv v (preset v) := by
  cases v <;> exact ⟨by decide, by decide⟩

theorem flagsInv_allOk (v : Variant) : FlagsInv v allOk := by
  cases v <;> exact ⟨by decide, by decide⟩

theorem preset_no_cs (v : Variant) : preset v &&& ~~~Flag.cs.mask = preset v := by cases v <;> decide

theorem fieldSlot_flag_ne_cs {v : Variant} {f : Field} {slot : Slot} (h : fieldSlot v f = some slot) :
    slot.flag ≠ .cs := by
  cases v <;> cases f <;> cases h <;> decide

theorem flag_mask_no_cs {x : Flag} (hx : x ≠ .cs) : x.mask &&& Flag.cs.mask = 0#6 := by
  cases x
  case cs => exact absurd rfl hx
  all_goals rfl

theorem FlagsInv.setFlag {v : Variant} {flags : BitVec 6} (h : FlagsInv v flags) {x : Flag} (hx : x ≠ .cs) :
    FlagsInv v (setFlag x flags) := by
  obtain ⟨hcs, hpre⟩ := h
  refine ⟨fun hset => ?_, ?_⟩
  · rw [Machine.setFlag, BitVec.and_or_distrib_right, flag_mask_no_cs hx, BitVec.or_zero] at hset
    rw [hcs hset]
    cases x <;> rfl
  · rw [Machine.setFlag, BitVec.and_or_distrib_right, hpre]
    ext k
    simp

theorem FlagsInv.clearCs {v : Variant} {flags : BitVec 6} (h : FlagsInv v flags) :
    FlagsInv v (clearFlag .cs flags) := by
  obtain ⟨_, hpre⟩ := h
  refine ⟨fun hset => absurd ?_ hset, ?_⟩
  · rw [clearFlag, BitVec.and_assoc]
    exact BitVec.and_zero
  · calc clearFlag .cs flags &&& preset v = (flags &&& preset v) &&& ~~~Flag.cs.mask := by
          rw [clearFlag]
          ac_rfl
      _ = preset v := by rw [hpre, preset_no_cs]

theorem FlagsInv.commit {v : Variant} {f : Field} {slot : Slot} {s : State} (h : FlagsInv v s.flags)
    (hslot : fieldSlot v f = some slot) (n off : Nat) (bs : List Byte) :
    FlagsInv v (commit slot.flag n off bs s).flags := by
  have hset := h.setFlag (fieldSlot_flag_ne_cs hslot)
  rw [commit_flags]
  split
  · exact hset.clearCs
  · exact hset

/-! ### The invariant through an operation -/

theorem initTotlen_bounds (v : Variant) : 6 ≤ initTotlen v ∧ initTotlen v ≤ 260 := by cases v <;> decide

/-- A setter leaves a packet of 6 to 260 bytes. -/
theorem SetterShape.length_bounds {f : Field} {slot : Slot} {n : Nat} {bs : List Byte} {s : State}
    (h : SetterShape f slot n bs s) (htot : 6 ≤ s.totlen ∧ s.totlen ≤ 260) (hra : operandRaMax s ≤ 84) :
    6 ≤ n ∧ n ≤ 260 := by
  cases f
  case dest | src | addr | count | data | id3 | id5 => exact h.1 ▸ htot
  case datas | addrs | caps =>
    obtain ⟨k, _, _, hn, _⟩ := h
    omega

theorem State.HandshakeInv.of_some {s : State} {p : Pending} (h : s.HandshakeInv) (hp : s.pending = some p) :
    s.busy = true ∧ p.op.WellFormed ∧
      p.arg0 = s.arg0 ∧ p.arg1 = s.arg1 ∧ p.buflen = s.buflen ∧ p.raMax = s.raMax := by
  simpa only [State.HandshakeInv, hp] using h

theorem State.HandshakeInv.of_none {s : State} (h : s.HandshakeInv) (hp : s.pending = none) : s.busy = false := by
  simpa only [State.HandshakeInv, hp] using h

theorem handshakeInv_of_none {s : State} (hp : s.pending = none) (hb : s.busy = false) : s.HandshakeInv := by
  simpa only [State.HandshakeInv, hp] using hb

/-- The latched RA_MAX is the register's (10_state R40). -/
theorem State.HandshakeInv.operandRaMax_eq {s : State} (h : s.HandshakeInv) : operandRaMax s = s.raMax := by
  unfold operandRaMax
  split
  · next p hp =>
    obtain ⟨_, _, _, _, _, hra⟩ := h.of_some hp
    exact hra
  · rfl

theorem State.HandshakeInv.pending_eq_none {s : State} (h : s.HandshakeInv) (hb : s.busy = false) :
    s.pending = none := by
  cases hp : s.pending with
  | none => rfl
  | some p =>
    obtain ⟨hbusy, _⟩ := h.of_some hp
    exact absurd (hbusy.symm.trans hb) (by decide)

theorem OperationEnd.packetInv {i : Instr} {s t : State} (h : OperationEnd i s t) (hs : s.PacketInv)
    (hra : operandRaMax s ≤ 84) : t.PacketInv := by
  cases h with
  | failed | answered | summed | checkedNone | checked => exact hs
  | released | undecoded => exact ⟨rfl, rfl⟩
  | created _ v _ =>
    obtain ⟨h6, h260⟩ := initTotlen_bounds v
    exact packetInv_of_some rfl h6 h260 (flagsInv_preset v)
  | loaded v _ hlen => exact packetInv_of_some rfl hlen (wireLength_bounds s).2 (flagsInv_allOk v)
  | stamped _ hv _ =>
    obtain ⟨v, hv⟩ := Option.ne_none_iff_exists'.mp hv
    obtain ⟨h6, h260, _⟩ := hs.of_some hv
    exact packetInv_of_some hv h6 h260 (flagsInv_allOk v)
  | committed f v slot n bs hv hslot hshape =>
    obtain ⟨h6, h260, hflags⟩ := hs.of_some hv
    obtain ⟨hn6, hn260⟩ := hshape.length_bounds ⟨h6, h260⟩ hra
    exact packetInv_of_some hv hn6 hn260 (hflags.commit hslot n slot.off bs)

theorem OperationEnd.pkt_wf {i : Instr} {s t : State} (h : OperationEnd i s t) (hs : s.pkt.wf 260) : t.pkt.wf 260 := by
  cases h with
  | failed | answered | summed | checkedNone | checked | released | undecoded | loaded => exact hs
  | stamped => exact stamps_wf hs
  | created _ v _ => exact newPacket_wf hs _ v
  | committed _ _ slot n bs => exact commit_wf hs slot.flag n slot.off bs

/-- The invariant with its command-byte table named, which no step changes (30_encoding R105). -/
def State.InvUnder (table : CmdTable) (s : State) : Prop := s.Inv ∧ s.cmdTable = table

theorem exec_invUnder {table : CmdTable} {i : Instr} {s t : State} (hs : s.InvUnder table) (h : exec i s = .next t) :
    t.InvUnder table := by
  obtain ⟨⟨hpacket, ⟨hbuf, hra1, hra84⟩, hhand, ⟨hpkt, hstg⟩, hlegal⟩, htable⟩ := hs
  have hend := exec_operationEnd h
  obtain ⟨hstgEq, _, _, hbufEq, hraEq, _, htableEq, _⟩ := hend.keepsHostSide
  obtain ⟨_, hbusy, hpend⟩ := hend.endedWith
  have hrange : t.RangeInv := by
    rw [State.RangeInv, hbufEq, hraEq]
    exact ⟨hbuf, hra1, hra84⟩
  exact ⟨⟨hend.packetInv hpacket (hhand.operandRaMax_eq ▸ hra84), hrange, handshakeInv_of_none hpend hbusy,
    ⟨hend.pkt_wf hpkt, hstgEq ▸ hstg⟩, htableEq ▸ hlegal⟩, htableEq.trans htable⟩

/-! ### The invariant through an action of the Host -/

theorem wellFormed_of_ne_new {i : Instr} (h : ∀ var, i ≠ .new var) : i.WellFormed := by
  cases i
  case new var => exact absurd rfl (h var)
  all_goals trivial

theorem opcodeRows_ne_new : ∀ row ∈ opcodeRows, ∀ var, row.2 ≠ .new var := by decide

theorem instrOfOpc_wellFormed {opc : Byte} {i : Instr} (h : instrOfOpc opc = some i) : i.WellFormed := by
  obtain ⟨row, hrow, rfl⟩ := Option.map_eq_some_iff.mp h
  exact wellFormed_of_ne_new (opcodeRows_ne_new row (List.mem_of_find?_eq_some hrow))

/-- What a word decodes to is well formed (30_encoding R92). -/
theorem decodeOp_wellFormed {w : Word} {i : Instr} (h : decodeOp w = .instr i) : i.WellFormed := by
  unfold decodeOp at h
  split at h
  · cases h
  · split at h
    · split at h <;> cases h
      next hvar => exact hvar
    · split at h
      · cases h
      · next hopc =>
        split at h <;> cases h
        exact instrOfOpc_wellFormed hopc

theorem reset_rangeInv : State.reset.RangeInv := ⟨by decide, by decide, by decide⟩

theorem reset_inv {table : CmdTable} (hlegal : table.Legal) : State.Inv { State.reset with cmdTable := table } :=
  ⟨⟨rfl, rfl⟩, reset_rangeInv, rfl, reset_memory_wf, hlegal⟩

theorem platformReset_invUnder {table : CmdTable} {s : State} (hs : s.InvUnder table) :
    (platformReset s).InvUnder table := by
  obtain ⟨⟨_, _, _, _, hlegal⟩, htable⟩ := hs
  exact ⟨reset_inv hlegal, htable⟩

theorem elapseIf_invUnder {table : CmdTable} {s : State} (hs : s.InvUnder table) (b : Bool) :
    (elapseIf b s).InvUnder table := by
  cases b <;> exact hs

theorem hostRead_invUnder {table : CmdTable} {s : State} (hs : s.InvUnder table) (addr : BitVec 14) (loc : Location) :
    (hostRead addr loc s).InvUnder table := by
  unfold hostRead
  split <;> exact hs

theorem writeCmd_invUnder {table : CmdTable} {s : State} (hs : s.InvUnder table) (w : Word) :
    (writeCmd w s).InvUnder table := by
  obtain ⟨⟨hpacket, hrange, _, hmem, hlegal⟩, htable⟩ := hs
  unfold writeCmd
  split
  · next i hdec =>
    have hwf : i.WellFormed := decodeOp_wellFormed hdec
    exact ⟨⟨hpacket, hrange, ⟨rfl, hwf, rfl, rfl, rfl, rfl⟩, hmem, hlegal⟩, htable⟩
  · exact ⟨⟨hpacket, hrange, rfl, hmem, hlegal⟩, htable⟩

/-- The four registers that the Host writes take any legal values while nothing is in flight (10_state R25 to R33). -/
theorem operandRegisters_invUnder {table : CmdTable} {s : State} (hs : s.InvUnder table) (hb : s.busy = false)
    (a0 a1 : Word) {buf ra : Nat} (hbuf : buf ≤ 260) (hra : 1 ≤ ra ∧ ra ≤ 84) :
    State.InvUnder table { s with arg0 := a0, arg1 := a1, buflen := buf, raMax := ra } := by
  obtain ⟨⟨hpacket, _, hhand, hmem, hlegal⟩, htable⟩ := hs
  exact ⟨⟨hpacket, ⟨hbuf, hra⟩, handshakeInv_of_none (hhand.pending_eq_none hb) hb, hmem, hlegal⟩, htable⟩

theorem writeReg_invUnder {table : CmdTable} {s : State} (hs : s.InvUnder table) (hb : s.busy = false) (w : Word)
    (r : HostReg) : (writeReg w s r).InvUnder table := by
  obtain ⟨_, ⟨hbuf, hra⟩, _⟩ := hs.1
  cases r
  case cmd => exact writeCmd_invUnder hs w
  case arg0 => exact operandRegisters_invUnder hs hb w s.arg1 hbuf hra
  case arg1 => exact operandRegisters_invUnder hs hb s.arg0 w hbuf hra
  case buflen =>
    rw [writeReg, writeBuflen_eq]
    exact operandRegisters_invUnder hs hb s.arg0 s.arg1 (by split <;> assumption) hra
  case config =>
    rw [writeReg, writeConfig_eq]
    exact operandRegisters_invUnder hs hb s.arg0 s.arg1 hbuf (by split <;> assumption)
  case status | res0 | flags | totlen | variant | acc | id => exact hs

theorem hostWrite_invUnder {table : CmdTable} {s : State} (hs : s.InvUnder table) (w : Word) (loc : Location) :
    (hostWrite w loc s).InvUnder table := by
  unfold hostWrite
  split
  · exact hs
  · next hb =>
    obtain ⟨⟨hpacket, hrange, hhand, ⟨hpkt, hstg⟩, hlegal⟩, htable⟩ := id hs
    cases loc with
    | pkt i => exact ⟨⟨hpacket, hrange, hhand, ⟨setPkt_wf hpkt i _, hstg⟩, hlegal⟩, htable⟩
    | stg i => exact ⟨⟨hpacket, hrange, hhand, ⟨hpkt, setStg_wf hstg i _⟩, hlegal⟩, htable⟩
    | reg r => exact writeReg_invUnder hs (by simpa using hb) w r

theorem hostStep_invUnder {table : CmdTable} {s t : State} (hs : s.InvUnder table) (h : hostStep s = .next t) :
    t.InvUnder table := by
  have hside : ∀ actions word, State.InvUnder table { s with host := actions, rdata := word } := fun _ _ => hs
  cases hhost : s.host with
  | nil =>
    simp only [hostStep, hhost] at h
    cases h
    exact elapseIf_invUnder hs _
  | cons a rest =>
    cases a with
    | reset =>
      simp only [hostStep, hhost] at h
      cases h
      exact platformReset_invUnder (hside rest s.rdata)
    | wait =>
      rw [hostStep_wait hhost] at h
      cases h
      exact elapseIf_invUnder (hside _ _) _
    | read addr bytes =>
      cases hloc : locate addr bytes with
      | none => simp [hostStep, hhost, hloc] at h
      | some loc =>
        rw [hostStep_read hhost hloc] at h
        cases h
        exact elapseIf_invUnder (hostRead_invUnder (hside rest s.rdata) addr loc) _
    | write addr bytes w =>
      cases hloc : locate addr bytes with
      | none => simp [hostStep, hhost, hloc] at h
      | some loc =>
        rw [hostStep_write hhost hloc] at h
        cases h
        exact elapseIf_invUnder (hostWrite_invUnder (hside rest s.rdata) w loc) _

/-! ### The invariant through a step -/

/-- Settles O24: a step is an operation's execution or an action of the Host, and both keep the invariant. -/
theorem stepKeepsInvariant : Obligations.StepKeepsInvariant := by
  intro s t hinv h
  have hs : s.InvUnder s.cmdTable := ⟨hinv, rfl⟩
  rcases step_cases s with ⟨p, _, _, hstep⟩ | ⟨_, hstep⟩
  · exact exec_invUnder hs (hstep.symm.trans h)
  · exact hostStep_invUnder hs (hstep.symm.trans h)

theorem defaultCmdTable_legal : defaultCmdTable.Legal := by
  refine ⟨fun v w h => ?_, rfl, rfl, rfl, rfl⟩
  revert h
  cases v <;> cases w <;> decide

/-- Settles O23. -/
theorem resetHasInvariant : Obligations.ResetHasInvariant := reset_inv defaultCmdTable_legal

/-- Settles O13: each row of R41 is the reset state's own field, and no byte of PKT or STG is listed. -/
theorem resetValues : Obligations.ResetValues :=
  ⟨rfl, rfl, rfl, rfl, rfl, rfl, rfl, rfl, rfl, rfl, rfl, rfl, rfl, rfl, fun _ => rfl, fun _ => rfl⟩

end Sys2Proof.Machine
end

section
/-! PROOFS. The two windows on the buffers, and what can stop the machine (20_memory R63 to R65, 60_exceptions R290,
R296). -/

namespace Sys2Proof.Machine

/-! ### The windows -/

/-- The word of the STG window that shows offset `i` (20_memory R65). -/
theorem locate_stg {i : Nat} (hi : i < 256) : locate (BitVec.ofNat 14 (0x2000 + 4 * i)) 4 = some (.stg i) := by
  have ha : (BitVec.ofNat 14 (0x2000 + 4 * i)).toNat = 0x2000 + 4 * i := by simp; omega
  simp only [locate, ha]
  rw [if_neg (by simp), if_neg (by omega), if_neg (by omega), if_neg (by omega), if_pos (by omega)]
  congr 2
  omega

/-- Bits [7:0] of a host word, the byte that a window stores. -/
theorem extractLsb'_low_byte (w : Word) : w.extractLsb' 0 8 = BitVec.ofNat 8 (w.toNat % 256) :=
  BitVec.eq_of_toNat_eq (by simp)

/-- Settles O17: the idle read and write at a location of the PKT window, and the byte that `setPkt` sets. -/
theorem pktWindow : Obligations.PktWindow := by
  intro s i w rest hi hb hp
  have hloc := locate_pkt (i := i) (by omega)
  refine ⟨fun h => ?_, fun h => ⟨_, step_write_idle hb hp h hloc, rfl, fun j => ?_⟩⟩
  · rw [step_read_idle hb hp h hloc, BitVec.ofNat_toNat]
    rfl
  · have hkeep : pktAt { s with host := rest } j = pktAt s j := pktAt_congr rfl rfl j
    rw [writeLoc, pktAt_setPkt, hkeep, extractLsb'_low_byte]
    simp [show i < 260 by omega]

/-- Settles O18: the same rules at a location of the STG window, with `setStg`. -/
theorem stgWindow : Obligations.StgWindow := by
  intro s i w rest hi hb hp
  have hloc := locate_stg (i := i) (by omega)
  refine ⟨fun h => ?_, fun h => ⟨_, step_write_idle hb hp h hloc, rfl, fun j => ?_⟩⟩
  · rw [step_read_idle hb hp h hloc, BitVec.ofNat_toNat]
    rfl
  · have hkeep : stgAt { s with host := rest } j = stgAt s j := stgAt_congr rfl rfl j
    rw [writeLoc, stgAt_setStg, hkeep, extractLsb'_low_byte]
    simp [show i < 256 by omega]

/-! ### What can stop the machine -/

/-- Every operation has a next state: a failing one ends with its code, and neither faults nor refuses (60_exceptions
R296). -/
theorem exec_next (i : Instr) (s : State) : ∃ t, exec i s = .next t := by
  cases i
  case new var =>
    change ∃ t, execNew var s = .next t
    unfold execNew
    split <;> exact ⟨_, rfl⟩
  case decode =>
    change ∃ t, execDecode s = .next t
    unfold execDecode
    split
    · exact ⟨_, rfl⟩
    · split <;> exact ⟨_, rfl⟩
  case finish =>
    change ∃ t, execFinish s = .next t
    unfold execFinish
    split
    · exact ⟨_, rfl⟩
    · split
      · exact ⟨_, rfl⟩
      · split <;> exact ⟨_, rfl⟩
  case check =>
    change ∃ t, execCheck s = .next t
    unfold execCheck
    split <;> exact ⟨_, rfl⟩
  case csum =>
    change ∃ t, execCsum s = .next t
    simp only [execCsum]
    split <;> exact ⟨_, rfl⟩
  all_goals exact ⟨_, rfl⟩

@[simp] theorem elapseIf_host (b : Bool) (s : State) : (elapseIf b s).host = s.host := by cases b <;> rfl

/-- How a step ends: in a state whose host program is a rest of the one before, or with a bus error because the next
action is not mapped. -/
inductive StepEnd (s : State) : Host.Outcome State Fault Refusal → Prop
  | next (t : State) (hhost : t.host <:+ s.host) : StepEnd s (.next t)
  | busError (a : HostAction) (rest : List HostAction) (hhost : s.host = a :: rest) (hm : a.mapped = false) :
      StepEnd s (.fault .busError)

theorem exec_stepEnd (i : Instr) (s : State) : StepEnd s (exec i s) := by
  obtain ⟨t, ht⟩ := exec_next i s
  obtain ⟨-, -, -, -, -, -, -, -, -, -, hhost, -⟩ := (exec_operationEnd ht).keepsHostSide
  rw [ht]
  exact .next t (hhost ▸ List.suffix_refl _)

theorem hostStep_stepEnd (s : State) : StepEnd s (hostStep s) := by
  cases hhost : s.host with
  | nil =>
    simp only [hostStep, hhost]
    exact .next _ (by simp)
  | cons a rest =>
    have hrest : rest <:+ s.host := hhost ▸ List.suffix_cons a rest
    cases a with
    | reset =>
      simp only [hostStep, hhost]
      exact .next _ hrest
    | wait =>
      rw [hostStep_wait hhost]
      refine .next _ ?_
      rw [elapseIf_host]
      split
      · exact hhost ▸ List.suffix_refl _
      · exact hrest
    | read addr bytes =>
      cases hloc : locate addr bytes with
      | none =>
        rw [(hostStep_read_fault_iff hhost).mpr (by simp [hloc])]
        exact .busError _ rest hhost (by simp [HostAction.mapped, hloc])
      | some loc =>
        rw [hostStep_read hhost hloc]
        exact .next _ (by simpa using hrest)
    | write addr bytes w =>
      cases hloc : locate addr bytes with
      | none =>
        rw [(hostStep_write_fault_iff hhost).mpr (by simp [hloc])]
        exact .busError _ rest hhost (by simp [HostAction.mapped, hloc])
      | some loc =>
        rw [hostStep_write hhost hloc]
        exact .next _ (by simpa [hostWrite_host] using hrest)

theorem step_stepEnd (s : State) : StepEnd s (step s) := by
  rcases step_cases s with ⟨p, _, _, h⟩ | ⟨_, h⟩
  · exact h ▸ exec_stepEnd p.op s
  · exact h ▸ hostStep_stepEnd s

/-- Settles O20: of the two ends of a step neither is a refusal, and one is the bus error. -/
theorem onlyBusErrorsStop : Obligations.OnlyBusErrorsStop := by
  intro s
  generalize hstep : step s = o
  cases hstep ▸ step_stepEnd s with
  | next t => exact ⟨nofun, nofun⟩
  | busError a rest hhost hm => exact ⟨nofun, fun _ hf => by cases hf; exact ⟨rfl, a, rest, hhost, hm⟩⟩

/-- A mapped host program survives a step: the step succeeds and what is left of the program is mapped. -/
theorem step_mapped {s : State} (hm : ∀ a ∈ s.host, a.mapped = true) :
    ∃ t, step s = .next t ∧ ∀ a ∈ t.host, a.mapped = true := by
  generalize hstep : step s = o
  cases hstep ▸ step_stepEnd s with
  | next t hhost => exact ⟨t, rfl, fun a ha => hm a (hhost.subset ha)⟩
  | busError a rest hhost hfalse => simp [hm a (by simp [hhost])] at hfalse

/-- A predicate whose states all step to states of it lets any number of steps succeed, and holds after them. -/
theorem run_of_step {P : State → Prop} (hP : ∀ s, P s → ∃ t, step s = .next t ∧ P t) (k : Nat) {s : State} (h : P s) :
    ∃ t : State, Host.Core.run Sys2Proof.core k s = .next t ∧ P t := by
  induction k generalizing s with
  | zero => exact ⟨s, rfl, h⟩
  | succ k ih =>
    obtain ⟨u, hu, hPu⟩ := hP s h
    rw [run_succ k hu]
    exact ih hPu

/-- Settles O21: "the host program is mapped" is such a predicate. -/
theorem mappedHostNeverStops : Obligations.MappedHostNeverStops := by
  intro k s hm
  obtain ⟨t, ht, _⟩ := run_of_step (P := fun s => ∀ a ∈ s.host, a.mapped = true) (fun _ => step_mapped) k hm
  exact ⟨t, ht⟩

end Sys2Proof.Machine
end

section
/-! PROOFS. The encoding (30_encoding R90 to R107): the three fields of an operation word, the rows of the OPC table, which
words and bytes decode and to what, and dispatch as the inverse of a legal command-byte table. -/

namespace Sys2Proof.Machine

/-! ### The fields of an operation word -/

theorem opcField_toNat (w : Word) : (opcField w).toNat = w.toNat % 256 := by simp [opcField]

theorem varField_toNat (w : Word) : (varField w).toNat = w.toNat / 256 % 16 := by
  simp [varField, Nat.shiftRight_eq_div_pow]

theorem reservedField_toNat (w : Word) : (reservedField w).toNat = w.toNat / 4096 := by
  have hw : w.toNat < 2 ^ 32 := w.isLt
  simp [reservedField, Nat.shiftRight_eq_div_pow]
  omega

theorem opWordOf_toNat (opc : Byte) (var : BitVec 4) : (opWordOf opc var).toNat = var.toNat * 256 + opc.toNat := by
  have hopc : opc.toNat < 256 := opc.isLt
  have hvar : var.toNat < 16 := var.isLt
  simp [opWordOf]
  omega

@[simp] theorem opcField_opWordOf (opc : Byte) (var : BitVec 4) : opcField (opWordOf opc var) = opc := by
  have hopc : opc.toNat < 256 := opc.isLt
  refine BitVec.eq_of_toNat_eq ?_
  rw [opcField_toNat, opWordOf_toNat]
  omega

@[simp] theorem varField_opWordOf (opc : Byte) (var : BitVec 4) : varField (opWordOf opc var) = var := by
  have hopc : opc.toNat < 256 := opc.isLt
  have hvar : var.toNat < 16 := var.isLt
  refine BitVec.eq_of_toNat_eq ?_
  rw [varField_toNat, opWordOf_toNat]
  omega

theorem reservedField_eq_zero_iff (w : Word) : reservedField w = 0#20 ↔ w.toNat / 4096 = 0 := by
  rw [← BitVec.toNat_inj, reservedField_toNat]
  rfl

@[simp] theorem reservedField_opWordOf (opc : Byte) (var : BitVec 4) : reservedField (opWordOf opc var) = 0#20 := by
  have hopc : opc.toNat < 256 := opc.isLt
  have hvar : var.toNat < 16 := var.isLt
  rw [reservedField_eq_zero_iff, opWordOf_toNat]
  omega

/-- A word whose reserved bits are 0 is made of its OPC and its VAR (30_encoding R90). -/
theorem opWordOf_fields {w : Word} (h : reservedField w = 0#20) : opWordOf (opcField w) (varField w) = w := by
  rw [reservedField_eq_zero_iff] at h
  refine BitVec.eq_of_toNat_eq ?_
  rw [opWordOf_toNat, opcField_toNat, varField_toNat]
  omega

/-! ### The OPC table -/

theorem instrOfOpc_opcNew : instrOfOpc opcNew = none := by decide

/-- No OPC stands in two rows of the table (30_encoding R91). -/
theorem instrOfOpc_of_row : ∀ row ∈ opcodeRows, instrOfOpc row.1 = some row.2 := by decide

theorem instrOfOpc_eq_some_iff {opc : Byte} {i : Instr} : instrOfOpc opc = some i ↔ (opc, i) ∈ opcodeRows := by
  refine ⟨fun h => ?_, instrOfOpc_of_row _⟩
  obtain ⟨⟨opc', i'⟩, hfind, rfl⟩ := Option.map_eq_some_iff.mp h
  obtain rfl : opc' = opc := by simpa using List.find?_some hfind
  exact List.mem_of_find?_eq_some hfind

/-- The OPCs of the table, but for that of NEW, are three runs of numbers. -/
theorem opcodeRows_opcs :
    opcodeRows.map (·.1.toNat) = List.range' 0x02 5 ++ List.range' 0x10 10 ++ List.range' 0x20 14 := rfl

/-- The assigned OPCs other than that of NEW (30_encoding R91, R93). -/
theorem instrOfOpc_assigned_iff (opc : Byte) :
    (∃ i, instrOfOpc opc = some i) ↔
      (0x02 ≤ opc.toNat ∧ opc.toNat ≤ 0x06) ∨ (0x10 ≤ opc.toNat ∧ opc.toNat ≤ 0x19) ∨
        (0x20 ≤ opc.toNat ∧ opc.toNat ≤ 0x2D) := by
  have hmem : (∃ i, instrOfOpc opc = some i) ↔ opc.toNat ∈ opcodeRows.map (·.1.toNat) := by
    simp [instrOfOpc_eq_some_iff, BitVec.toNat_inj]
  rw [hmem, opcodeRows_opcs]
  simp only [List.mem_append, List.mem_range'_1]
  omega

theorem encode_of_row (t : CmdTable) : ∀ row ∈ opcodeRows, encode t row.2 = .opWord (opWordOf row.1 0#4) := by
  simp [opcodeRows, encode]

theorem encode_of_instrOfOpc (t : CmdTable) {opc : Byte} {i : Instr} (h : instrOfOpc opc = some i) :
    encode t i = .opWord (opWordOf opc 0#4) := encode_of_row t _ (instrOfOpc_eq_some_iff.mp h)

theorem encode_variant_instr (t : CmdTable) (v : Variant) : encode t v.instr = .command (t.byte v) := by
  cases v <;> rfl

theorem variant_instr_wellFormed (v : Variant) : v.instr.WellFormed := by cases v <;> trivial

/-- An instruction is NEW, a row of the OPC table, or a wire variant. -/
theorem instr_cases (i : Instr) :
    (∃ var, i = .new var) ∨ (∃ opc, instrOfOpc opc = some i) ∨ ∃ v : Variant, v.instr = i := by
  have hrow : i ∈ opcodeRows.map (·.2) → ∃ opc, instrOfOpc opc = some i := fun h => by
    obtain ⟨row, hmem, rfl⟩ := List.mem_map.mp h
    exact ⟨row.1, instrOfOpc_of_row row hmem⟩
  cases i
  case new var => exact .inl ⟨var, rfl⟩
  case initrq => exact .inr (.inr ⟨.initrq, rfl⟩)
  case initrs => exact .inr (.inr ⟨.initrs, rfl⟩)
  case rbrq => exact .inr (.inr ⟨.rbrq, rfl⟩)
  case rbrs => exact .inr (.inr ⟨.rbrs, rfl⟩)
  case rarq => exact .inr (.inr ⟨.rarq, rfl⟩)
  case rars => exact .inr (.inr ⟨.rars, rfl⟩)
  case warq => exact .inr (.inr ⟨.warq, rfl⟩)
  case wars => exact .inr (.inr ⟨.wars, rfl⟩)
  all_goals exact .inr (.inl (hrow (by decide)))

/-! ### What decodes -/

/-- Exactly the words that decode: NEW with a variant code 1 to 8, or a row of the OPC table with VAR 0, the reserved bits
0 in both (30_encoding R92). -/
theorem decodeOp_eq_instr_iff {w : Word} {i : Instr} :
    decodeOp w = .instr i ↔
      reservedField w = 0#20 ∧
        ((opcField w = opcNew ∧ i = .new (varField w) ∧ i.WellFormed) ∨
          (varField w = 0#4 ∧ instrOfOpc (opcField w) = some i)) := by
  unfold decodeOp
  split
  · next hres => simp [hres]
  · next hres =>
    rw [Decidable.not_not] at hres
    split
    · next hopc =>
      rw [hopc, instrOfOpc_opcNew]
      split
      · next hvar =>
        simp only [hres, Decoded.instr.injEq, true_and, reduceCtorEq, and_false, or_false]
        exact ⟨fun h => h ▸ ⟨rfl, hvar⟩, fun h => h.1.symm⟩
      · next hvar =>
        simp only [hres, true_and, reduceCtorEq, and_false, or_false, false_iff]
        rintro ⟨rfl, hwf⟩
        exact hvar hwf
    · next hopc =>
      split
      · next hnone => simp [hopc, hnone]
      · next j hsome =>
        split
        · next hvar => simp [hres, hopc, hsome, hvar]
        · next hvar => simp [hopc, hvar]

theorem decodeOp_rejected_iff (w : Word) : (∃ r, decodeOp w = .rejected r) ↔ ¬ ∃ i, decodeOp w = .instr i := by
  cases decodeOp w <;> simp

theorem decodeCommand_eq_instr_iff {t : CmdTable} {b : Byte} {i : Instr} :
    decodeCommand t b = .instr i ↔ ∃ v, t.variantOf b = some v ∧ v.instr = i := by
  unfold decodeCommand
  split
  · next hnone => simp [hnone]
  · next v hsome => simp [hsome]

/-- Settles O4: the words that decode, read by the numbers of their fields. -/
theorem reservedWordsRejected : Obligations.ReservedWordsRejected := by
  intro w
  have hnew : opcField w = opcNew ↔ w.toNat % 256 = 0x01 := by
    rw [← BitVec.toNat_inj, opcField_toNat]
    rfl
  have hvar0 : varField w = 0#4 ↔ w.toNat / 256 % 16 = 0 := by
    rw [← BitVec.toNat_inj, varField_toNat]
    rfl
  have hdecodes : (∃ i, decodeOp w = .instr i) ↔
      w.toNat / 4096 = 0 ∧
        ((w.toNat % 256 = 0x01 ∧ 1 ≤ w.toNat / 256 % 16 ∧ w.toNat / 256 % 16 ≤ 8) ∨
          (w.toNat / 256 % 16 = 0 ∧ ∃ i, instrOfOpc (opcField w) = some i)) := by
    simp only [decodeOp_eq_instr_iff, exists_and_left, exists_or, reservedField_eq_zero_iff, hnew, hvar0,
      exists_eq_left, Instr.WellFormed, varField_toNat]
  rw [decodeOp_rejected_iff, hdecodes, instrOfOpc_assigned_iff, opcField_toNat]
  omega

/-- Settles O1: the twelve words and bytes, and the eight reserved ones, through the decoder. -/
theorem writtenWordsDecode : Obligations.WrittenWordsDecode := by
  unfold Obligations.WrittenWordsDecode
  decide

/-! ### Dispatch -/

theorem variantOf_eq_some_iff {t : CmdTable} (ht : t.Legal) {b : Byte} {v : Variant} :
    t.variantOf b = some v ↔ t.byte v = b := by
  obtain ⟨hinj, -⟩ := ht
  refine ⟨variantOf_byte, ?_⟩
  rintro rfl
  cases hw : t.variantOf (t.byte v) with
  | none => exact absurd rfl (variantOf_none hw v)
  | some w => rw [hinj w v (variantOf_byte hw)]

/-- Settles O5. -/
theorem legalTablesDispatch : Obligations.LegalTablesDispatch :=
  ⟨defaultCmdTable_legal, fun _ ht _ _ => variantOf_eq_some_iff ht⟩

/-! ### Encoding and decoding -/

/-- Settles O2: the three kinds of instruction, each by what decodes. -/
theorem decodeOfEncode : Obligations.DecodeOfEncode := by
  intro t i ht hwf
  rcases instr_cases i with ⟨var, rfl⟩ | ⟨opc, hopc⟩ | ⟨v, rfl⟩
  · show decodeOp (opWordOf opcNew var) = _
    rw [decodeOp_eq_instr_iff]
    exact ⟨by simp, .inl ⟨by simp, by simp, hwf⟩⟩
  · rw [encode_of_instrOfOpc t hopc, decode, decodeOp_eq_instr_iff]
    exact ⟨by simp, .inr ⟨by simp, by simpa using hopc⟩⟩
  · rw [encode_variant_instr, decode, decodeCommand_eq_instr_iff]
    exact ⟨v, (variantOf_eq_some_iff ht).mpr rfl, rfl⟩

/-- Settles O3: a word that decodes is made of its OPC and its VAR, and a byte that dispatches is its variant's. -/
theorem encodeOfDecode : Obligations.EncodeOfDecode := by
  intro t e i h
  cases e with
  | opWord w =>
    change decodeOp w = .instr i at h
    refine ⟨?_, decodeOp_wellFormed h⟩
    obtain ⟨hres, ⟨hopc, rfl, -⟩ | ⟨hvar, hrow⟩⟩ := decodeOp_eq_instr_iff.mp h
    · rw [← opWordOf_fields hres, hopc, varField_opWordOf]
      rfl
    · rw [encode_of_instrOfOpc t hrow, ← hvar, opWordOf_fields hres]
  | command b =>
    obtain ⟨v, hv, rfl⟩ := decodeCommand_eq_instr_iff.mp h
    rw [encode_variant_instr, variantOf_byte hv]
    exact ⟨rfl, variant_instr_wellFormed v⟩

end Sys2Proof.Machine
end

section
/-! PROOFS. DECODE and the wire variants through the one constructor that they run (41_framer_lifecycle R163, R164), and
two actions at the block's edge: a word that spells no operation and the platform's reset (30_encoding R92, 70_reset
R320). -/

namespace Sys2Proof.Machine

/-! ### The packet constructor -/

theorem loadPacket_ok {v : Variant} {s : State} (hlen : 6 ≤ wireLength s) (hbuf : wireLength s ≤ operandBuflen s) :
    loadPacket v s = complete .ok
      { s with variant := some v, totlen := wireLength s, flags := allOk, res0 := BitVec.ofNat 32 v.code } := by
  rcases loadPacket_cases v s with ⟨h, _⟩ | ⟨_, _, h⟩
  · omega
  · exact h

theorem loadPacket_short {v : Variant} {s : State} (h : wireLength s < 6 ∨ operandBuflen s < wireLength s) :
    loadPacket v s = decodeFail .bufferTooShort s := by
  rcases loadPacket_cases v s with ⟨_, hfail⟩ | ⟨_, _, _⟩
  · exact hfail
  · omega

/-- Settles O32: every row is a variant's instruction and code, and the constructor has the two outcomes. -/
theorem wireVariantsLoad : Obligations.WireVariantsLoad := by
  intro s i v code hrow
  have hmap : (i, v, code) ∈ allVariants.map fun v => (v.instr, v, v.code) := hrow
  obtain ⟨v', _, hv'⟩ := List.mem_map.mp hmap
  cases hv'
  rw [exec_variant_instr]
  refine ⟨fun hbyte hbuf => ?_, fun hshort => ?_⟩
  · rw [loadPacket_ok (by unfold wireLength; omega) hbuf]
    rfl
  · rw [loadPacket_short (by unfold wireLength; omega)]
    rfl

theorem execDecode_of_variantOf {s : State} {v : Variant} (hbuf : 6 ≤ operandBuflen s)
    (hv : s.cmdTable.variantOf (pktAt s 4) = some v) : execDecode s = .next (loadPacket v s) := by
  have hmin : ¬ operandBuflen s < Config.minTotal := Nat.not_lt.mpr hbuf
  rw [execDecode, if_neg hmin, hv]

/-- Settles O33: the byte that decodes dispatches, and both sides run that variant's constructor. -/
theorem decodeRunsDispatchedVariant : Obligations.DecodeRunsDispatchedVariant := by
  intro s i hbuf hdec
  obtain ⟨v, hv, rfl⟩ := decodeCommand_eq_instr_iff.mp hdec
  rw [exec_variant_instr]
  exact execDecode_of_variantOf hbuf hv

/-! ### Illegal words and reset -/

/-- Settles O8: a write to CMD on the idle block, whose word is rejected. -/
theorem illegalWordCompletesAtOnce : Obligations.IllegalWordCompletesAtOnce := by
  intro s w r rest h hb hp hdec
  rw [step_writeReg .cmd hb hp h, writeReg, writeCmd, hdec]
  simp [rejectOp, raise, complete, hb, hp]

theorem hostStep_reset {s : State} {rest : List HostAction} (h : s.host = .reset :: rest) :
    hostStep s = .next (platformReset { s with host := rest }) := by
  simp only [hostStep, h]

/-- The platform's reset leaves every byte of the buffers to the new epoch (70_reset R320). -/
theorem pktAt_platformReset (s : State) (i : Nat) : pktAt (platformReset s) i = Config.pktReset (s.epoch + 1) i := rfl

theorem stgAt_platformReset (s : State) (i : Nat) : stgAt (platformReset s) i = Config.stgReset (s.epoch + 1) i := rfl

/-- Settles O12: in a step that completes no operation the reset action takes place. -/
theorem platformResetState : Obligations.PlatformResetState := by
  intro s rest h hidle
  rw [step_eq_hostStep hidle, hostStep_reset h]
  exact ⟨_, rfl, rfl, pktAt_platformReset _, stgAt_platformReset _⟩

end Sys2Proof.Machine
end

section
/-! PROOFS. The setters: the first two tests of every one, the fields of fixed place and width, and the bytes that no
setter touches (42_field_setters R200 to R207, 30_encoding R109, R110). -/

namespace Sys2Proof.Machine

/-! ### The tests for a packet and for the field -/

/-- Every setter is the common procedure for its field (42_field_setters R200). -/
theorem exec_setter {i : Instr} {f : Field} (hf : setterField i = some f) (s : State) :
    ∃ empty bad body, exec i s = .next (runSetter f empty bad s body) := by
  cases i <;> cases hf <;> exact ⟨_, _, _, rfl⟩

theorem exec_setter_noPacket {i : Instr} {f : Field} {s : State} (hf : setterField i = some f)
    (hv : s.variant = none) : exec i s = .next (complete .noPacket s) := by
  obtain ⟨empty, bad, body, h⟩ := exec_setter hf s
  simp [h, runSetter, hv, raise]

theorem exec_setter_fieldNotApplicable {i : Instr} {f : Field} {v : Variant} {s : State}
    (hf : setterField i = some f) (hv : s.variant = some v) (hslot : fieldSlot v f = none) :
    exec i s = .next (complete .fieldNotApplicable s) := by
  obtain ⟨empty, bad, body, h⟩ := exec_setter hf s
  simp [h, runSetter, hv, hslot, raise]

/-- The variants that have a field: a row of 30_encoding R110. -/
def variantsWith (f : Field) : List Variant := allVariants.filter fun v => (fieldSlot v f).isSome

theorem fieldSlot_eq_none_iff {v : Variant} {f : Field} : fieldSlot v f = none ↔ v ∉ variantsWith f := by
  simp [variantsWith, mem_allVariants]

/-- The fields that not every variant has, by their setters, with the variants that have them (30_encoding R110). -/
theorem setterField_variantsWith :
    ∀ row ∈ [(Instr.setAddr, [Variant.rbrq, .warq]), (.setCount, [.rbrq]), (.setData, [.warq, .wars]),
        (.setDatas, [.rbrs, .rars]), (.setAddrs, [.rarq]), (.setId3, [.initrs]), (.setId5, [.initrs]),
        (.setCaps, [.initrs])],
      (setterField row.1).map variantsWith = some row.2 := by decide

/-- Settles O46: the two tests of the common procedure, the second for a row of the field map. -/
theorem setterStateTests : Obligations.SetterStateTests := by
  intro s
  refine ⟨fun hv i f hf => exec_setter_noPacket hf hv, fun v i variants hv hrow hnot => ?_⟩
  obtain ⟨f, hf, rfl⟩ := Option.map_eq_some_iff.mp (setterField_variantsWith _ hrow)
  exact exec_setter_fieldNotApplicable hf hv (fieldSlot_eq_none_iff.mpr hnot)

/-! ### Fields of fixed place and width -/

/-- A setter of fixed size whose operands are in range, on a packet with room for its field: the stored bytes, the
tracker update and the frame (42_field_setters R200, R201). -/
theorem exec_setFixed {i : Instr} {f : Field} {v : Variant} {off : Nat} {flag : Flag} {bad : Bool} {bytes : List Byte}
    {s : State} (hexec : exec i s = .next (setFixed f false bad bytes s)) (hbad : bad = false)
    (hv : s.variant = some v) (hslot : fieldSlot v f = some ⟨off, some bytes.length, flag⟩)
    (hroom : off + bytes.length ≤ s.totlen - 1) (h260 : s.totlen ≤ 260) :
    ∃ t, exec i s = .next t ∧ SetterFrame s t ∧ TrackerUpdate flag s t ∧ StoredField off s.totlen bytes s t := by
  have hfits : Slot.tooLong ⟨off, some bytes.length, flag⟩ s.totlen = false := by
    simpa [Slot.tooLong] using hroom
  refine ⟨_, hexec, ?_⟩
  rw [setFixed, hbad, runSetter_ok _ hv hslot hfits]
  exact commit_spec flag s.totlen off bytes s (.inr rfl) (by omega)

theorem be24Bytes_eq (w : Word) :
    be24Bytes w = [BitVec.ofNat 8 (w.toNat / 65536), BitVec.ofNat 8 (w.toNat / 256 % 256),
      BitVec.ofNat 8 (w.toNat % 256)] := by
  simp only [be24Bytes, List.cons.injEq, and_true]
  refine ⟨?_, ?_, ?_⟩ <;>
    exact BitVec.eq_of_toNat_eq (by simp [Nat.shiftRight_eq_div_pow])

theorem arg0Byte_eq (s : State) : arg0Byte s = BitVec.ofNat 8 (operandArg0 s).toNat :=
  BitVec.eq_of_toNat_eq (by simp [arg0Byte])

/-- Settles O42: the two variants that have the field. -/
theorem setAddress : Obligations.SetAddress := by
  intro s v off a hv hrow ha hle hroom h260
  have hslot : fieldSlot v .addr = some ⟨off, some 3, .d1⟩ := by
    simp only [List.mem_cons, Prod.mk.injEq, List.not_mem_nil, or_false] at hrow
    obtain ⟨rfl, rfl⟩ | ⟨rfl, rfl⟩ := hrow <;> rfl
  rw [← ha, ← be24Bytes_eq]
  exact exec_setFixed (i := .setAddr) rfl (by simp; omega) hv hslot hroom h260

theorem exec_setData {v : Variant} {off : Nat} {flag : Flag} {s : State} (hv : s.variant = some v)
    (hslot : fieldSlot v .data = some ⟨off, some 1, flag⟩) (hle : (operandArg0 s).toNat ≤ 0xFF)
    (hroom : off + 1 ≤ s.totlen - 1) (h260 : s.totlen ≤ 260) :
    ∃ t, exec .setData s = .next t ∧ SetterFrame s t ∧ TrackerUpdate flag s t ∧
      StoredField off s.totlen [BitVec.ofNat 8 (operandArg0 s).toNat] s t := by
  rw [← arg0Byte_eq]
  exact exec_setFixed (i := .setData) rfl (by simpa [arg0AboveByte] using hle) hv hslot hroom h260

/-- Settles O43: COUNT on its one variant, DATA on its two. -/
theorem setCountAndData : Obligations.SetCountAndData := by
  intro s k hk h260
  subst hk
  refine ⟨fun hv h1 hle hroom => ?_, fun hv hle hroom => ?_, fun hv hle hroom => ?_⟩
  · exact exec_setFixed (i := .setCount) rfl (by simp; omega) hv rfl hroom h260
  · exact exec_setData hv rfl hle hroom h260
  · exact exec_setData hv rfl hle hroom h260

/-! ### The bytes that no setter touches -/

/-- The marker, the length byte, the command byte and, where the variant has one, the padding byte (30_encoding R109). -/
def IsFramingByte (v : Variant) (j : Nat) : Prop := j = 0 ∨ j = 3 ∨ j = 4 ∨ padOffset v = some j

theorem padOffset_eq_some {v : Variant} {j : Nat} (h : padOffset v = some j) : j = 5 := by
  cases v <;> cases h <;> rfl

theorem IsFramingByte.bounds {v : Variant} {j : Nat} (h : IsFramingByte v j) : j ≤ 5 ∧ j ≠ 1 ∧ j ≠ 2 := by
  rcases h with rfl | rfl | rfl | hpad
  case inr.inr.inr => rw [padOffset_eq_some hpad]; decide
  all_goals decide

theorem IsFramingByte.padOffset_eq {v : Variant} {j : Nat} (h : IsFramingByte v j) (h5 : 5 ≤ j) :
    padOffset v = some j := by
  rcases h with rfl | rfl | rfl | hpad
  case inr.inr.inr => exact hpad
  all_goals exact absurd h5 (by decide)

/-- Where a field lies: an identifier at its own offset, any other field above the header and the padding byte. -/
theorem fieldSlot_off {v : Variant} {f : Field} {slot : Slot} (h : fieldSlot v f = some slot) :
    (f = .dest ∧ slot.off = 1) ∨ (f = .src ∧ slot.off = 2) ∨ (5 ≤ slot.off ∧ padOffset v ≠ some slot.off) := by
  cases f
  case dest => cases h; exact .inl ⟨rfl, rfl⟩
  case src => cases h; exact .inr (.inl ⟨rfl, rfl⟩)
  all_goals
    refine .inr (.inr ?_)
    cases v <;> cases h <;> exact ⟨by decide, by decide⟩

/-- No field that a setter stores covers a framing byte. -/
theorem SetterShape.avoids_framing {f : Field} {slot : Slot} {n : Nat} {bs : List Byte} {s : State} {v : Variant}
    {j : Nat} (hshape : SetterShape f slot n bs s) (hslot : fieldSlot v f = some slot) (hj : IsFramingByte v j) :
    ¬ (slot.off ≤ j ∧ j < slot.off + bs.length) := by
  obtain ⟨hj5, hj1, hj2⟩ := hj.bounds
  rcases fieldSlot_off hslot with ⟨rfl, hoff⟩ | ⟨rfl, hoff⟩ | ⟨hoff, hpad⟩
  · obtain ⟨-, hlen⟩ := hshape
    omega
  · obtain ⟨-, hlen⟩ := hshape
    omega
  · rintro ⟨hle, -⟩
    obtain rfl : j = slot.off := by omega
    exact hpad (hj.padOffset_eq hoff)

/-- A setter leaves the framing bytes of a packet of at least 6 bytes, whether it fails, stores or resizes. -/
theorem setter_keeps_framing {i : Instr} {f : Field} {s t : State} {v : Variant} {j : Nat}
    (hf : setterField i = some f) (hv : s.variant = some v) (h6 : 6 ≤ s.totlen) (h : exec i s = .next t)
    (hj : IsFramingByte v j) : pktAt t j = pktAt s j := by
  obtain ⟨hj5, -⟩ := hj.bounds
  rcases setter_cases hf h with ⟨c, -, rfl⟩ | ⟨v', slot, n, bs, hv', hslot, -, hshape, rfl⟩
  · rfl
  · obtain rfl : v' = v := Option.some.inj (hv'.symm.trans hv)
    have hfield := hshape.avoids_framing hslot hj
    rw [pktAt_complete, pktAt_commit, if_neg (by omega), if_neg (by omega)]

/-- Settles O49: four framing bytes, the last on the two variants that have it. -/
theorem settersKeepFramingBytes : Obligations.SettersKeepFramingBytes := by
  intro i f s t v hf hv h6 h
  have hkeep : ∀ j, IsFramingByte v j → pktAt t j = pktAt s j := fun j => setter_keeps_framing hf hv h6 h
  refine ⟨hkeep 0 (.inl rfl), hkeep 3 (.inr (.inl rfl)), hkeep 4 (.inr (.inr (.inl rfl))), ?_⟩
  rintro (rfl | rfl) <;> exact hkeep 5 (.inr (.inr (.inr rfl)))

end Sys2Proof.Machine
end

section
/-! PROOFS. The checksum accumulator and the exact sum that it takes the low byte of, CSUM, and the change of one byte
(40_checksum R140 to R145). -/

namespace Sys2Proof.Machine

/-! ### The exact sum -/

theorem sumPkt_eq_sum_range (s : State) (k : Nat) :
    sumPkt s k = ((List.range k).map fun i => (pktAt s i).toNat).sum := by
  induction k with
  | zero => rfl
  | succ k ih => simp [sumPkt, List.range_succ, ih]

theorem sumPkt_le (s : State) (k : Nat) : sumPkt s k ≤ 255 * k := by
  induction k with
  | zero => exact Nat.le_refl 0
  | succ k ih =>
    have hbyte := (pktAt s k).isLt
    rw [sumPkt]
    omega

/-! ### The loop -/

/-- A register of any width holds the exact sum of what it has added, as far as it can. -/
theorem foldl_add_pktAt (s : State) (width : Nat) (order : List Nat) (a : BitVec width) :
    order.foldl (fun (a : BitVec width) i => a + (pktAt s i).setWidth width) a =
      a + BitVec.ofNat width (order.map fun i => (pktAt s i).toNat).sum := by
  induction order generalizing a with
  | nil => simp
  | cons i order ih =>
    rw [List.foldl_cons, ih, List.map_cons, List.sum_cons, BitVec.ofNat_add, BitVec.ofNat_toNat, BitVec.add_assoc]

theorem accLoop_eq_ofNat_sumPkt (s : State) (k : Nat) : accLoop s k = BitVec.ofNat 8 (sumPkt s k) := by
  induction k with
  | zero => rfl
  | succ k ih => rw [accLoop, sumPkt, ih, BitVec.ofNat_add, BitVec.ofNat_toNat, BitVec.setWidth_eq]

theorem csum_eq_accLoop (s : State) (n : Nat) : csum s n = accLoop s (n - 1) :=
  (accLoop_eq_ofNat_sumPkt s (n - 1)).symm

/-- Settles O26: a register of any width and any order leads to the exact sum of the same bytes, and from 8 bits up it
keeps the low byte of that sum. -/
theorem accumulatorLaw : Obligations.AccumulatorLaw := by
  intro s n _ hn
  refine ⟨(csum_eq_accLoop s n).symm, fun order width hwidth hperm => ?_, ?_⟩
  · rw [foldl_add_pktAt, BitVec.zero_add, BitVec.setWidth_ofNat_of_le hwidth, (hperm.map _).sum_nat,
      ← sumPkt_eq_sum_range, csum]
  · have hsum := sumPkt_le s (n - 1)
    omega

/-! ### CSUM -/

theorem execCsum_inRange {s : State} (h1 : 1 ≤ (operandArg0 s).toNat) (h260 : (operandArg0 s).toNat ≤ 260) :
    execCsum s = .next (complete .ok
      { s with acc := csum s (operandArg0 s).toNat, res0 := (csum s (operandArg0 s).toNat).setWidth 32 }) := by
  rw [csum_eq_accLoop]
  exact if_neg (by simp [Config.maxTotal]; omega)

theorem execCsum_outOfRange {s : State} (h : (operandArg0 s).toNat < 1 ∨ 260 < (operandArg0 s).toNat) :
    execCsum s = .next (complete .valueOutOfRange s) :=
  if_pos (by simp [Config.maxTotal]; omega)

/-- Settles O27: the two ranges of ARG0. -/
theorem csumResult : Obligations.CsumResult := by
  rintro s n rfl
  refine ⟨fun ⟨h1, h260⟩ => ?_, execCsum_outOfRange⟩
  rw [BitVec.ofNat_toNat]
  exact execCsum_inRange h1 h260

/-! ### The change of one byte -/

theorem pktAt_setPkt_same {k : Nat} (hk : k < 260) (b : Byte) (s : State) : pktAt (setPkt k b s) k = b := by
  rw [pktAt_setPkt, if_pos ⟨rfl, hk⟩]

theorem pktAt_setPkt_of_ne {j k : Nat} (hne : j ≠ k) (b : Byte) (s : State) :
    pktAt (setPkt k b s) j = pktAt s j := by
  rw [pktAt_setPkt, if_neg fun h => hne h.1]

theorem accLoop_setPkt_of_le {n k : Nat} (hnk : n ≤ k) (b : Byte) (s : State) :
    accLoop (setPkt k b s) n = accLoop s n :=
  accLoop_congr fun _ hj => pktAt_setPkt_of_ne (by omega) b s

/-- A byte that the loop adds moves the result by the difference. -/
theorem accLoop_setPkt_of_lt {n k : Nat} (hkn : k < n) (hk : k < 260) (b : Byte) (s : State) :
    accLoop (setPkt k b s) n = accLoop s n + (b - pktAt s k) := by
  induction n with
  | zero => exact absurd hkn (Nat.not_lt_zero k)
  | succ n ih =>
    rw [accLoop, accLoop]
    rcases Nat.lt_succ_iff_lt_or_eq.mp hkn with hlt | rfl
    · rw [ih hlt, pktAt_setPkt_of_ne (by omega)]
      ac_rfl
    · rw [accLoop_setPkt_of_le (Nat.le_refl k), pktAt_setPkt_same hk, BitVec.add_assoc,
        BitVec.add_comm (pktAt s k), BitVec.sub_add_cancel]

/-- The checksum byte itself is not in the sum, and any other byte of the packet is in it once. -/
theorem checksum_wrong_of_setPkt {s : State} {k : Nat} {b : Byte} (h260 : s.totlen ≤ 260)
    (hright : pktAt s (s.totlen - 1) = csum s s.totlen) (hk : k < s.totlen) (hb : b ≠ pktAt s k) :
    pktAt (setPkt k b s) (s.totlen - 1) ≠ csum (setPkt k b s) s.totlen := by
  rw [csum_eq_accLoop] at hright ⊢
  by_cases hlast : k = s.totlen - 1
  · subst hlast
    rwa [pktAt_setPkt_same (by omega), accLoop_setPkt_of_le (Nat.le_refl _), ← hright]
  · rw [pktAt_setPkt_of_ne (Ne.symm hlast), accLoop_setPkt_of_lt (by omega) (by omega), hright]
    intro h
    have hzero : b - pktAt s k = 0#8 := BitVec.self_eq_add_right.mp h
    exact hb ((BitVec.sub_eq_iff_eq_add.mp hzero).trans (BitVec.zero_add _))

/-- CHECK answers 0 on a wrong checksum byte, whatever its other tests say (41_framer_lifecycle R176). -/
theorem execCheck_of_checksum_wrong {s : State} {v : Variant} (hv : s.variant = some v)
    (hwrong : pktAt s (s.totlen - 1) ≠ csum s s.totlen) : ∃ t, execCheck s = .next t ∧ t.result = false := by
  have hsum : (pktAt s (s.totlen - 1) == accLoop s (s.totlen - 1)) = false :=
    beq_false_of_ne (csum_eq_accLoop s s.totlen ▸ hwrong)
  exact ⟨_, execCheck_some hv, by simp [verdict, Verdict.all, hsum]⟩

/-- Settles O28: the checksum byte becomes wrong, and that test alone decides CHECK. -/
theorem singleByteChangeDetected : Obligations.SingleByteChangeDetected := by
  intro s v k b hv _ h260 hright hk hb
  have hwrong := checksum_wrong_of_setPkt h260 hright hk hb
  exact ⟨hwrong, execCheck_of_checksum_wrong (s := setPkt k b s) hv hwrong⟩

end Sys2Proof.Machine
end

section
/-! PROOFS. The lifecycle of a packet (41_framer_lifecycle R160 to R181): what NEW builds, the outcomes of DECODE, the
two stamps of FINISH and its other cases, the verdict of CHECK, RELEASE, and the key that tells two packets apart. -/

namespace Sys2Proof.Machine

/-! ### NEW -/

theorem variantOfCode_code (v : Variant) : variantOfCode v.code = some v := by cases v <;> decide

theorem execNew_of_code {var : BitVec 4} {v : Variant} (h : v.code = var.toNat) (s : State) :
    execNew var s = .next (complete .ok (newPacket s.cmdTable v s)) := by
  rw [execNew, ← h, variantOfCode_code]

/-- Settles O30: the eight rows are the variants with their codes, initial lengths and presets. -/
theorem newBuildsEmptyPacket : Obligations.NewBuildsEmptyPacket := by
  refine ⟨fun s var v len pre hrow => ?_, fun _ _ h => decodeOp_wellFormed h⟩
  have hmap : (var, v, len, pre) ∈
      allVariants.map fun v => (BitVec.ofNat 4 v.code, v, initTotlen v, preset v) := hrow
  obtain ⟨v', _, hv'⟩ := List.mem_map.mp hmap
  cases hv'
  have hcode : v.code = (BitVec.ofNat 4 v.code).toNat := by cases v <;> rfl
  refine ⟨_, execNew_of_code hcode s, rfl, fun j => ?_⟩
  rw [pktAt_complete, pktAt_newPacket]
  by_cases h0 : j = 0
  · subst h0; rfl
  · rw [if_neg h0, if_neg h0]

/-! ### DECODE -/

theorem execDecode_shortBuffer {s : State} (h : operandBuflen s < 6) :
    execDecode s = .next (decodeFail .bufferTooShort s) := if_pos h

theorem execDecode_unrecognized {s : State} (hbuf : 6 ≤ operandBuflen s)
    (h : s.cmdTable.variantOf (pktAt s 4) = none) :
    execDecode s = .next (decodeFail .unrecognizedCommand s) := by
  have hmin : ¬ operandBuflen s < Config.minTotal := Nat.not_lt.mpr hbuf
  rw [execDecode, if_neg hmin, h]

theorem variantOf_eq_none {t : CmdTable} {b : Byte} (h : ∀ v, t.byte v ≠ b) : t.variantOf b = none := by
  cases hv : t.variantOf b with
  | none => rfl
  | some v => exact absurd (variantOf_byte hv) (h v)

/-- Settles O31: one case for each test. -/
theorem decodeOutcomes : Obligations.DecodeOutcomes := by
  intro s
  refine ⟨execDecode_shortBuffer, fun hbuf hbyte => execDecode_unrecognized hbuf (variantOf_eq_none hbyte),
    fun v hlegal hbuf hbyte => ?_⟩
  have hload : exec .decode s = .next (loadPacket v s) :=
    execDecode_of_variantOf hbuf ((variantOf_eq_some_iff hlegal).mpr hbyte)
  refine ⟨fun hlen => ?_, fun h6 hlen => ?_⟩
  · rw [hload, loadPacket_short hlen]
    rfl
  · rw [hload, loadPacket_ok h6 hlen]
    rfl

/-- The packet in PKT, loaded as it stands (41_framer_lifecycle R163, R166). -/
def loadedState (v : Variant) (s : State) : State :=
  complete .ok { s with variant := some v, totlen := wireLength s, flags := allOk, res0 := BitVec.ofNat 32 v.code }

theorem execDecode_loads {s : State} {v : Variant} (hbuf : 6 ≤ operandBuflen s)
    (hv : s.cmdTable.variantOf (pktAt s 4) = some v) (h6 : 6 ≤ wireLength s) (hlen : wireLength s ≤ operandBuflen s) :
    execDecode s = .next (loadedState v s) := by
  rw [execDecode_of_variantOf hbuf hv, loadPacket_ok h6 hlen, loadedState]

/-- A DECODE that ends OK has loaded the packet. -/
theorem execDecode_ok {s t : State} (h : execDecode s = .next t) (hok : t.code = .ok) : ∃ v, t = loadedState v s := by
  unfold execDecode at h
  split at h
  · cases h
    cases hok
  · split at h <;> cases h
    · cases hok
    · next v _ =>
      rcases loadPacket_cases v s with ⟨_, hfail⟩ | ⟨_, _, hload⟩
      · rw [hfail] at hok
        cases hok
      · exact ⟨v, hload⟩

/-! ### FINISH -/

theorem execFinish_noPacket {s : State} (hv : s.variant = none) : execFinish s = .next (complete .noPacket s) := by
  simp [execFinish, hv]

theorem execFinish_allOk {s : State} {v : Variant} (hv : s.variant = some v) (hflags : s.flags = allOk) :
    execFinish s = .next (complete .ok { s with res0 := 0#32 }) := by
  simp [execFinish, hv, hflags]

/-- The state that FINISH leaves when it stamps (41_framer_lifecycle R169). -/
def stampedState (s : State) : State :=
  complete .ok { stampChecksum (stampLength s) with flags := allOk, res0 := 0#32 }

theorem execFinish_allButChecksum {s : State} {v : Variant} (hv : s.variant = some v)
    (hflags : s.flags = allButChecksum) : execFinish s = .next (stampedState s) := by
  have hne : allButChecksum ≠ allOk := by decide
  simp [execFinish, hv, hflags, hne, stampedState]

theorem execFinish_incomplete {s : State} {v : Variant} (hv : s.variant = some v) (hok : s.flags ≠ allOk)
    (habc : s.flags ≠ allButChecksum) :
    execFinish s = .next (complete .packetIncomplete { s with res0 := missingMask s.flags }) := by
  simp [execFinish, hv, hok, habc]

/-- A FINISH that ends OK found either every flag set or every flag but CS (41_framer_lifecycle R169). -/
theorem execFinish_ok {s t : State} (h : execFinish s = .next t) (hok : t.code = .ok) :
    ∃ v, s.variant = some v ∧
      ((s.flags = allOk ∧ t = complete .ok { s with res0 := 0#32 }) ∨
        (s.flags = allButChecksum ∧ t = stampedState s)) := by
  obtain hv | ⟨v, hv⟩ := Option.eq_none_or_eq_some s.variant
  · rw [execFinish_noPacket hv] at h
    cases h
    cases hok
  refine ⟨v, hv, ?_⟩
  by_cases hall : s.flags = allOk
  · rw [execFinish_allOk hv hall] at h
    cases h
    exact .inl ⟨hall, rfl⟩
  by_cases habc : s.flags = allButChecksum
  · rw [execFinish_allButChecksum hv habc] at h
    cases h
    exact .inr ⟨habc, rfl⟩
  · rw [execFinish_incomplete hv hall habc] at h
    cases h
    cases hok

theorem pktAt_stampedState (s : State) (j : Nat) :
    pktAt (stampedState s) j =
      if j = s.totlen - 1 ∧ s.totlen - 1 < 260 then accLoop (stampLength s) (s.totlen - 1)
      else if j = 3 then BitVec.ofNat 8 (s.totlen - 5) else pktAt s j := pktAt_stamps s j

/-- The checksum byte, stored last, is not in its own sum. -/
theorem csum_stampedState (s : State) : csum (stampedState s) s.totlen = accLoop (stampLength s) (s.totlen - 1) := by
  rw [csum_eq_accLoop]
  exact accLoop_congr fun j hj => pktAt_setPkt_of_ne (by rw [stampLength, setPkt_totlen]; omega) _ _

/-- Settles O34: the bytes after the two stamps, and the checksum of those bytes. -/
theorem finishStamps : Obligations.FinishStamps := by
  intro s v hv h6 h260 hflags
  refine ⟨_, execFinish_allButChecksum hv hflags, ?_, ?_, ?_, fun j h3 hlast => ?_⟩
  · rw [csum_stampedState]
    rfl
  · rw [pktAt_stampedState, if_neg (by omega), if_pos rfl]
  · rw [pktAt_stampedState, csum_stampedState, if_pos ⟨rfl, by omega⟩]
  · rw [pktAt_stampedState, if_neg fun h => hlast h.1, if_neg h3]

theorem allButChecksum_getLsbD (k : Nat) : allButChecksum.getLsbD k = decide (k < 5) := by
  have hlow : ∀ k < 6, allButChecksum.getLsbD k = decide (k < 5) := by decide
  by_cases hk : k < 6
  · exact hlow k hk
  · rw [BitVec.getLsbD_of_ge _ _ (by omega), decide_eq_false (by omega)]

theorem missingMask_getLsbD (flags : BitVec 6) (k : Nat) :
    (missingMask flags).getLsbD k = (decide (k < 5) && !flags.getLsbD k) := by
  rw [missingMask, BitVec.getLsbD_setWidth, BitVec.getLsbD_and, BitVec.getLsbD_not, allButChecksum_getLsbD]
  by_cases hk : k < 5
  · simp [hk, show k < 6 by omega, show k < 32 by omega]
  · simp [hk]

/-- Settles O35: the three cases, the mask bit by bit. -/
theorem finishWithoutStamping : Obligations.FinishWithoutStamping := by
  refine fun s => ⟨execFinish_noPacket, fun v hv => ⟨execFinish_allOk hv, fun hok habc => ?_⟩⟩
  refine ⟨missingMask s.flags, execFinish_incomplete hv hok habc, fun k hk => ?_, fun k hk => ?_⟩
  · rw [missingMask_getLsbD, decide_eq_true hk, Bool.true_and]
  · rw [missingMask_getLsbD, decide_eq_false (by omega), Bool.false_and]

/-- Settles O36: both ways to end OK leave AllOk and RES0 = 0. -/
theorem finishIsIdempotent : Obligations.FinishIsIdempotent := by
  intro s t h hok
  obtain ⟨v, hv, ⟨hflags, rfl⟩ | ⟨_, rfl⟩⟩ := execFinish_ok h hok
  · exact ⟨hflags, execFinish_allOk hv hflags⟩
  · exact ⟨rfl, execFinish_allOk hv rfl⟩

/-- Settles O37: what DECODE loaded has AllOk, where FINISH stamps nothing. -/
theorem finishAfterDecodeOnlyClearsRes0 : Obligations.FinishAfterDecodeOnlyClearsRes0 := by
  intro s t h hok
  obtain ⟨v, rfl⟩ := execDecode_ok h hok
  exact ⟨rfl, rfl, execFinish_allOk (s := loadedState v s) (v := v) rfl rfl⟩

/-! ### CHECK -/

theorem sizeOk_iff (v : Variant) (n : Nat) : sizeOk v n = true ↔ SizeRule v n := by
  cases v <;> simp [sizeOk, SizeRule]

/-- The conjunction of the six tests is the rule of R174 and R175. -/
theorem verdict_all_iff (v : Variant) (s : State) :
    (verdict s.cmdTable v (csum s s.totlen) s).all = true ↔ PassesCheck v s := by
  simp [verdict, Verdict.all, PassesCheck, sizeOk_iff, Config.marker, and_assoc]

theorem Verdict.word_getLsbD (d : Verdict) (k : Nat) :
    d.word.getLsbD k = (d.all && decide (k = 0) || d.hdr && decide (k = 1) || d.len && decide (k = 2) ||
      d.adr && decide (k = 3) || d.sum && decide (k = 4) || d.cmd && decide (k = 5) || d.siz && decide (k = 6)) := by
  simp [Verdict.word, getLsbD_bitAt]

theorem execCheck_loaded {s : State} {v : Variant} (hv : s.variant = some v) :
    execCheck s = .next (complete .ok { s with
      acc := csum s s.totlen, res0 := (verdict s.cmdTable v (csum s s.totlen) s).word,
      result := (verdict s.cmdTable v (csum s s.totlen) s).all }) := by
  rw [execCheck_some hv, csum_eq_accLoop]
  rfl

/-- Settles O38: the six tests are the detail bits, and their conjunction the rule of R174 and R175. -/
theorem checkVerdict : Obligations.CheckVerdict := by
  refine fun s => ⟨execCheck_none, fun v hv => ?_⟩
  refine ⟨_, _, execCheck_loaded hv, verdict_all_iff v s, ?_⟩
  simp only [Verdict.word_getLsbD]
  refine ⟨by simp, ?_, ?_, ?_, ?_, ?_, ?_, fun k hk => ?_⟩
  · simp [verdict, Config.marker]
  · simp [verdict]
  · simp [verdict]
  · simp [verdict]
  · simp [verdict]
  · simp [verdict, sizeOk_iff]
  · simp
    omega

theorem execCheck_result {s t : State} {v : Variant} (hv : s.variant = some v) (h : execCheck s = .next t) :
    t.result = true ↔ PassesCheck v s := by
  rw [execCheck_loaded hv] at h
  cases h
  exact verdict_all_iff v s

/-! ### RELEASE and the key -/

/-- Settles O40. -/
theorem releaseUnloads : Obligations.ReleaseUnloads := fun _ => rfl

theorem getAlways_some {s : State} {v : Variant} (hv : s.variant = some v) (value : Word) :
    getAlways value s = complete .ok { s with res0 := value } := by simp [getAlways, hv]

/-- Settles O55: the key is TOTLEN and the checksum byte side by side, and both fit. -/
theorem keysDecideEquality : Obligations.KeysDecideEquality := by
  intro s s' t t' v v' hv hv' h260 h260' h h'
  change execGetKey s = _ at h
  change execGetKey s' = _ at h'
  rw [execGetKey, getAlways_some hv] at h
  rw [execGetKey, getAlways_some hv'] at h'
  cases h
  cases h'
  have hb := (pktAt s (s.totlen - 1)).isLt
  have hb' := (pktAt s' (s'.totlen - 1)).isLt
  simp only [complete_res0, ← BitVec.toNat_inj, BitVec.toNat_ofNat]
  omega

end Sys2Proof.Machine
end

section
/-! PROOFS. Building and parsing (41_framer_lifecycle R177, R178, 42_field_setters R214): what NEW and the setters keep of a
packet under construction, what FINISH then makes of it, and the way from a checked packet through DECODE and back. -/

namespace Sys2Proof.Machine

/-! ### A changed packet is finished anew -/

/-- The field that a setter stores ends before the checksum byte (42_field_setters R200). -/
theorem SetterShape.field_end {f : Field} {slot : Slot} {n : Nat} {bs : List Byte} {s : State} {v : Variant}
    (hshape : SetterShape f slot n bs s) (hslot : fieldSlot v f = some slot) (hroom : slot.tooLong s.totlen = false)
    (h6 : 6 ≤ s.totlen) : slot.off + bs.length ≤ n - 1 := by
  cases f
  case dest | src =>
    obtain ⟨rfl, hlen⟩ := hshape
    cases hslot
    dsimp only
    omega
  case addr | count | data | id3 | id5 =>
    obtain ⟨rfl, hwidth⟩ := hshape
    simpa [Slot.tooLong, hwidth] using hroom
  case datas | addrs | caps =>
    obtain ⟨k, _, _, rfl, hlen⟩ := hshape
    cases v <;> cases hslot <;> dsimp only <;> omega

/-- A setter that ends OK on a state with the invariant updates the tracker for the flag of its field. -/
theorem setter_ok_tracker {i : Instr} {f : Field} {s t : State} (hinv : s.Inv) (hf : setterField i = some f)
    (h : exec i s = .next t) (hok : t.code = .ok) : ∃ v x, t.variant = some v ∧ TrackerUpdate x s t := by
  obtain ⟨hpacket, ⟨_, _, hra⟩, hhand, _⟩ := hinv
  rcases setter_cases hf h with ⟨c, hc, rfl⟩ | ⟨v, slot, n, bs, hv, hslot, hroom, hshape, rfl⟩
  · exact absurd hok hc
  · obtain ⟨h6, h260, _⟩ := hpacket.of_some hv
    have hn := hshape.length_bounds ⟨h6, h260⟩ (hhand.operandRaMax_eq ▸ hra)
    have hend := hshape.field_end hslot hroom h6
    obtain ⟨_, htrack, _⟩ := commit_spec slot.flag n slot.off bs s (.inl hn.2) (by omega)
    exact ⟨v, slot.flag, hv, htrack⟩

/-- A stamp of the length reads back as the length: 260 less 5 still fits a byte. -/
theorem length_of_stamp {n : Nat} (h6 : 6 ≤ n) (h260 : n ≤ 260) : (BitVec.ofNat 8 (n - 5)).toNat + 5 = n := by
  rw [BitVec.toNat_ofNat]
  omega

/-- Settles O50: the tracker clears CS alone, and FINISH stamps on what is left. -/
theorem changedPacketIsRestamped : Obligations.ChangedPacketIsRestamped := by
  intro i f s t hinv hf h hok hflags hchanged
  obtain ⟨v, x, hv, htrack, _⟩ := setter_ok_tracker hinv hf h hok
  have htflags : t.flags = 0x1F#6 := by
    rw [htrack hchanged, hflags]
    cases x <;> rfl
  obtain ⟨⟨hpacket, _⟩, _⟩ := exec_invUnder ⟨hinv, rfl⟩ h
  obtain ⟨h6, h260, _⟩ := hpacket.of_some hv
  obtain ⟨u, hfinish, hu, hlen, hsum, _⟩ := finishStamps t v hv h6 h260 htflags
  have hutot : u.totlen = t.totlen := by rw [hu]
  refine ⟨htflags, u, hfinish, by rw [hu], hutot, ?_, ?_⟩
  · rw [hlen, hutot, length_of_stamp h6 h260]
  · rw [hutot, hsum]

/-! ### A packet under construction -/

theorem preset_cs (v : Variant) : preset v &&& Flag.cs.mask = 0#6 := by cases v <;> rfl

/-- Only the init request starts with D1 set, and its initial length is its only one (41_framer_lifecycle R161). -/
theorem sizeOk_initTotlen_of_preset_d1 {v : Variant} (h : preset v &&& Flag.d1.mask ≠ 0#6) :
    sizeOk v (initTotlen v) = true := by
  cases v
  case initrq => rfl
  all_goals exact absurd rfl h

theorem newPacket_built (v : Variant) (s : State) : (complete .ok (newPacket s.cmdTable v s)).Built v := by
  obtain ⟨_, h260⟩ := initTotlen_bounds v
  refine ⟨rfl, ?_, ?_, preset_cs v, Nat.le_refl _, h260, .inl rfl, sizeOk_initTotlen_of_preset_d1⟩
  · rw [pktAt_complete, pktAt_newPacket]
    rfl
  · rw [pktAt_complete, pktAt_newPacket]
    rfl

theorem flag_mask_and_mask {x y : Flag} (h : x ≠ y) : x.mask &&& y.mask = 0#6 := by
  revert h
  cases x <;> cases y <;> decide

theorem setFlag_and_mask {x y : Flag} (h : x ≠ y) (flags : BitVec 6) :
    setFlag x flags &&& y.mask = flags &&& y.mask := by
  rw [setFlag, BitVec.and_or_distrib_right, flag_mask_and_mask h, BitVec.or_zero]

theorem clearFlag_and_mask_same (x : Flag) (flags : BitVec 6) : clearFlag x flags &&& x.mask = 0#6 := by
  rw [clearFlag, BitVec.and_assoc, BitVec.and_comm (~~~x.mask), BitVec.and_not_self]
  exact BitVec.and_zero

theorem clearFlag_and_mask {x y : Flag} (h : x ≠ y) (flags : BitVec 6) :
    clearFlag x flags &&& y.mask = flags &&& y.mask := by
  have hmask : ~~~x.mask &&& y.mask = y.mask := by
    revert h
    cases x <;> cases y <;> decide
  rw [clearFlag, BitVec.and_assoc, hmask]

/-- commit never sets CS. -/
theorem commit_flags_cs {fl : Flag} {s : State} (hfl : fl ≠ .cs) (hcs : s.flags &&& Flag.cs.mask = 0#6) (n off : Nat)
    (bs : List Byte) : (commit fl n off bs s).flags &&& Flag.cs.mask = 0#6 := by
  rw [commit_flags]
  split
  · exact clearFlag_and_mask_same .cs _
  · exact (setFlag_and_mask hfl s.flags).trans hcs

/-- commit leaves every flag but its own and CS. -/
theorem commit_flags_other {fl x : Flag} (hx : fl ≠ x) (hcs : x ≠ .cs) (n off : Nat) (bs : List Byte) (s : State) :
    (commit fl n off bs s).flags &&& x.mask = s.flags &&& x.mask := by
  rw [commit_flags]
  split
  · rw [clearFlag_and_mask hcs.symm, setFlag_and_mask hx]
  · exact setFlag_and_mask hx s.flags

/-- The setter of an identifier keeps the length and does not set D1. -/
theorem SetterShape.identifier {f : Field} {slot : Slot} {n : Nat} {bs : List Byte} {s : State} {v : Variant}
    (hshape : SetterShape f slot n bs s) (hslot : fieldSlot v f = some slot) (hid : f = .dest ∨ f = .src) :
    n = s.totlen ∧ slot.flag ≠ .d1 := by
  obtain rfl | rfl := hid <;> cases hslot <;> exact ⟨hshape.1, by decide⟩

/-- The setter of any field but an identifier leaves a length that CHECK admits: its own, if it sets the size, and the
initial one, or the one that stands, if it does not. -/
theorem SetterShape.sizeOk {f : Field} {slot : Slot} {n : Nat} {bs : List Byte} {s : State} {v : Variant}
    (hshape : SetterShape f slot n bs s) (hslot : fieldSlot v f = some slot) (hid : ¬ (f = .dest ∨ f = .src))
    (hlen : s.totlen = initTotlen v ∨ sizeOk v s.totlen = true) : sizeOk v n = true := by
  cases f
  case dest => exact absurd (.inl rfl) hid
  case src => exact absurd (.inr rfl) hid
  case addr | count | data | id3 | id5 =>
    obtain ⟨rfl, _⟩ := hshape
    rcases hlen with hinit | hok
    · rw [hinit]
      cases v <;> cases hslot <;> rfl
    · exact hok
  case datas | addrs | caps =>
    obtain ⟨k, _, _, rfl, _⟩ := hshape
    rw [sizeOk_iff]
    cases v <;> cases hslot <;> simp only [SizeRule] <;> omega

/-- A setter never shortens a packet under construction below its initial length. -/
theorem SetterShape.initTotlen_le {f : Field} {slot : Slot} {n : Nat} {bs : List Byte} {s : State} {v : Variant}
    (hshape : SetterShape f slot n bs s) (hslot : fieldSlot v f = some slot) (hlen : initTotlen v ≤ s.totlen) :
    initTotlen v ≤ n := by
  cases f
  case dest | src | addr | count | data | id3 | id5 => exact hshape.1 ▸ hlen
  case datas | addrs | caps =>
    obtain ⟨k, _, _, rfl, _⟩ := hshape
    cases v <;> cases hslot <;> simp only [initTotlen] <;> omega

theorem commit_built {i : Instr} {f : Field} {s t : State} {v : Variant} {slot : Slot} {n : Nat} {bs : List Byte}
    (hf : setterField i = some f) (h : exec i s = .next t) (hbuilt : s.Built v) (hra : operandRaMax s ≤ 84)
    (hslot : fieldSlot v f = some slot) (hshape : SetterShape f slot n bs s)
    (ht : t = complete .ok (commit slot.flag n slot.off bs s)) : t.Built v := by
  obtain ⟨hv, hmarker, hcmd, hcs, hinit, h260, hlen, hd1⟩ := hbuilt
  have h6 : 6 ≤ s.totlen := Nat.le_trans (initTotlen_bounds v).1 hinit
  have hkeep : ∀ j, IsFramingByte v j → pktAt t j = pktAt s j := fun _ => setter_keeps_framing hf hv h6 h
  have hmarker' : pktAt t 0 = Config.marker := (hkeep 0 (.inl rfl)).trans hmarker
  have hcmd' : pktAt t 4 = s.cmdTable.byte v := (hkeep 4 (.inr (.inr (.inl rfl)))).trans hcmd
  subst ht
  have hcs' := commit_flags_cs (fieldSlot_flag_ne_cs hslot) hcs n slot.off bs
  refine ⟨hv, hmarker', hcmd', hcs', hshape.initTotlen_le hslot hinit, (hshape.length_bounds ⟨h6, h260⟩ hra).2, ?_⟩
  by_cases hid : f = .dest ∨ f = .src
  · obtain ⟨rfl, hflag⟩ := hshape.identifier hslot hid
    refine ⟨hlen, fun hset => hd1 ?_⟩
    rwa [← commit_flags_other hflag (by decide) s.totlen slot.off bs s]
  · have hok := hshape.sizeOk hslot hid hlen
    exact ⟨.inr hok, fun _ => hok⟩

/-- Settles O58: NEW builds such a packet, a failing setter writes nothing but STATUS, and commit keeps it. -/
theorem newAndSettersKeepBuild : Obligations.NewAndSettersKeepBuild := by
  refine ⟨fun s t var v hcode h => ?_, fun i f s t v hf hbuilt hra h => ?_⟩
  · change execNew var s = _ at h
    rw [execNew_of_code hcode] at h
    cases h
    exact newPacket_built v s
  · rcases setter_cases hf h with ⟨c, _, rfl⟩ | ⟨v', slot, n, bs, hv', hslot, _, hshape, ht⟩
    · exact hbuilt
    · obtain ⟨hv, _⟩ := id hbuilt
      obtain rfl : v' = v := Option.some.inj (hv'.symm.trans hv)
      exact commit_built hf h hbuilt hra hslot hshape ht

/-! ### From FINISH to CHECK -/

/-- CS is off on a packet under construction, so that a FINISH that ends OK finds exactly AllButChecksum. -/
theorem State.Built.flags_of_finish_ok {s t : State} {v : Variant} (hbuilt : s.Built v) (h : execFinish s = .next t)
    (hok : t.code = .ok) : s.flags = allButChecksum := by
  obtain ⟨_, _, _, hcs, _⟩ := hbuilt
  obtain ⟨_, _, ⟨hflags, _⟩ | ⟨hflags, _⟩⟩ := execFinish_ok h hok
  · rw [hflags] at hcs
    exact absurd hcs (by decide)
  · exact hflags

/-- Settles O59: of the six tests, the construction gives three, the stamps two, and the identifiers decide the last. -/
theorem finishedBuildPassesCheck : Obligations.FinishedBuildPassesCheck := by
  intro s t u v hbuilt hfinish hok hcheck
  have hflags := hbuilt.flags_of_finish_ok hfinish hok
  obtain ⟨hv, hmarker, hcmd, _, hinit, h260, _, hd1⟩ := hbuilt
  have h6 : 6 ≤ s.totlen := Nat.le_trans (initTotlen_bounds v).1 hinit
  have hsize : SizeRule v s.totlen := (sizeOk_iff v _).mp (hd1 (by rw [hflags]; decide))
  obtain ⟨t', hfinish', ht, hlen, hsum, hother⟩ := finishStamps s v hv h6 h260 hflags
  obtain rfl : t' = t := Host.Outcome.next.inj (hfinish'.symm.trans hfinish)
  have htv : t'.variant = some v := by rw [ht]; exact hv
  have httot : t'.totlen = s.totlen := by rw [ht]
  have httable : t'.cmdTable = s.cmdTable := by rw [ht]
  have hkeep : ∀ j, j < 5 → j ≠ 3 → pktAt t' j = pktAt s j := fun j hj h3 => hother j h3 (by omega)
  rw [execCheck_result htv hcheck, PassesCheck, httot, httable, hlen, hsum, hkeep 0 (by decide) (by decide),
    hkeep 1 (by decide) (by decide), hkeep 2 (by decide) (by decide), hkeep 4 (by decide) (by decide)]
  exact ⟨fun ⟨_, _, hne, _⟩ => hne,
    fun hne => ⟨hmarker, length_of_stamp h6 h260, hne, rfl, hcmd, hsize⟩⟩

/-! ### From CHECK through DECODE to CHECK -/

theorem SizeRule.six_le {v : Variant} {n : Nat} (h : SizeRule v n) : 6 ≤ n := by
  cases v <;> simp only [SizeRule] at h <;> omega

/-- CHECK's rule reads the bytes, TOTLEN and the command-byte table. -/
theorem passesCheck_congr {s s' : State} (hpkt : ∀ j, pktAt s' j = pktAt s j) (htot : s'.totlen = s.totlen)
    (htable : s'.cmdTable = s.cmdTable) (v : Variant) : PassesCheck v s' ↔ PassesCheck v s := by
  have hcsum : csum s' s.totlen = csum s s.totlen := by
    rw [csum, csum, sumPkt_congr fun j _ => hpkt j]
  simp only [PassesCheck, hpkt, htot, htable, hcsum]

/-- CHECK keeps all that it reads, and latches nothing. -/
theorem execCheck_keeps {s t : State} {v : Variant} (hv : s.variant = some v) (h : execCheck s = .next t) :
    (∀ j, pktAt t j = pktAt s j) ∧ t.totlen = s.totlen ∧ t.cmdTable = s.cmdTable ∧ operandBuflen t = t.buflen := by
  rw [execCheck_loaded hv] at h
  cases h
  exact ⟨fun _ => rfl, rfl, rfl, rfl⟩

/-- Settles O60: the length and command tests of CHECK are those of DECODE, which keeps all that CHECK reads. -/
theorem decodeOfEncodedPacket : Obligations.DecodeOfEncodedPacket := by
  intro s t v hlegal hv hcheck hresult hbuf _
  have hpass : PassesCheck v s := (execCheck_result hv hcheck).mp hresult
  obtain ⟨_, hlen, _, _, hcmd, hsize⟩ := id hpass
  obtain ⟨hpkt, htot, htable, hlatch⟩ := execCheck_keeps hv hcheck
  have h6 := hsize.six_le
  have hwire : wireLength t = s.totlen := by rw [wireLength, hpkt, hlen]
  have hdispatch : t.cmdTable.variantOf (pktAt t 4) = some v := by
    rw [htable, hpkt]
    exact (variantOf_eq_some_iff hlegal).mpr hcmd.symm
  have hdecode := execDecode_loads (by omega) hdispatch (by omega) (by omega)
  have hpass' : PassesCheck v (loadedState v t) :=
    (passesCheck_congr (s' := loadedState v t) hpkt hwire htable v).mpr hpass
  have hrecheck := execCheck_loaded (s := loadedState v t) (v := v) rfl
  exact ⟨_, _, hdecode, rfl, rfl, hwire, hpkt, rfl, hrecheck, (execCheck_result (v := v) rfl hrecheck).mpr hpass'⟩

end Sys2Proof.Machine
end

section
/-! PROOFS. The setters test by test and the packet that a successful one leaves: the identifiers, the identifier
strings and the fields that set the size, the operand tests and the size test, and the getter that reads back what a
scalar setter stored (42_field_setters R200 to R212, 43_field_getters R241 to R245). -/

namespace Sys2Proof.Machine

/-! ### The common procedure, test by test

An instruction is given by its procedure (`hexec`, by `rfl` for each of the ten); `hfield` says that the loaded variant
has the field. -/

section
variable {i : Instr} {f : Field} {empty bad : Bool} {body : Slot → State} {v : Variant} {slot : Slot} {s : State}

/-- Test 3 of 42_field_setters R200. -/
theorem exec_setter_argumentInvalid (hexec : exec i s = .next (runSetter f empty bad s body)) (hv : s.variant = some v)
    (hfield : (fieldSlot v f).isSome) (hempty : empty = true) : exec i s = .next (complete .argumentInvalid s) := by
  obtain ⟨slot, hslot⟩ := Option.isSome_iff_exists.mp hfield
  simp [hexec, runSetter, hv, hslot, hempty]

/-- Test 4 of 42_field_setters R200. -/
theorem exec_setter_valueOutOfRange (hexec : exec i s = .next (runSetter f empty bad s body)) (hv : s.variant = some v)
    (hfield : (fieldSlot v f).isSome) (hempty : empty = false) (hbad : bad = true) :
    exec i s = .next (complete .valueOutOfRange s) := by
  obtain ⟨slot, hslot⟩ := Option.isSome_iff_exists.mp hfield
  simp [hexec, runSetter, hv, hslot, hempty, hbad]

/-- Test 5 of 42_field_setters R200. -/
theorem exec_setter_bufferTooShort (hexec : exec i s = .next (runSetter f empty bad s body)) (hv : s.variant = some v)
    (hslot : fieldSlot v f = some slot) (hempty : empty = false) (hbad : bad = false)
    (hshort : slot.tooLong s.totlen = true) : exec i s = .next (complete .bufferTooShort s) := by
  simp [hexec, runSetter, hv, hslot, hempty, hbad, hshort]

/-- A setter whose tests all pass: the stored bytes, the tracker update and the frame (42_field_setters R201, R202). -/
theorem exec_setter_commits {newLen off : Nat} {width : Option Nat} {flag : Flag} {bytes : List Byte}
    (hexec : exec i s = .next (runSetter f empty bad s fun slot => commit slot.flag newLen slot.off bytes s))
    (hv : s.variant = some v) (hslot : fieldSlot v f = some ⟨off, width, flag⟩) (hempty : empty = false)
    (hbad : bad = false) (hroom : Slot.tooLong ⟨off, width, flag⟩ s.totlen = false)
    (hlen : newLen ≤ 260 ∨ newLen = s.totlen) (hfits : off + bytes.length ≤ 260) :
    ∃ t, exec i s = .next t ∧ SetterFrame s t ∧ TrackerUpdate flag s t ∧ StoredField off newLen bytes s t := by
  subst hempty hbad
  rw [runSetter_ok _ hv hslot hroom] at hexec
  exact ⟨_, hexec, commit_spec flag newLen off bytes s hlen hfits⟩

end

theorem arg0AboveByte_eq_true_iff (s : State) : arg0AboveByte s = true ↔ 0xFF < (operandArg0 s).toNat := by
  simp [arg0AboveByte]

theorem arg0AboveByte_eq_false_iff (s : State) : arg0AboveByte s = false ↔ (operandArg0 s).toNat ≤ 0xFF := by
  simp [arg0AboveByte]

theorem Slot.tooLong_of_width {slot : Slot} {w n : Nat} (hw : slot.width = some w) (h : n - 1 < slot.off + w) :
    slot.tooLong n = true := by simpa [Slot.tooLong, hw] using h

theorem Slot.not_tooLong_of_width {slot : Slot} {w n : Nat} (hw : slot.width = some w) (h : slot.off + w ≤ n - 1) :
    slot.tooLong n = false := by simpa [Slot.tooLong, hw] using h

/-! ### Identifiers, identifier strings and the fields that set the size -/

/-- Settles O41: every packet has room for the two identifiers. -/
theorem setIdentifiers : Obligations.SetIdentifiers := by
  intro s v hv hle
  have hbad := (arg0AboveByte_eq_false_iff s).mpr hle
  rw [← arg0Byte_eq]
  exact ⟨exec_setter_commits (i := .setDest) (f := .dest) rfl hv rfl rfl hbad rfl (.inr rfl) (by simp),
    exec_setter_commits (i := .setSrc) (f := .src) rfl hv rfl rfl hbad rfl (.inr rfl) (by simp)⟩

/-- Settles O44: the two strings of the init response. -/
theorem setIdentifierStrings : Obligations.SetIdentifierStrings := by
  intro s hv _
  refine ⟨fun hn hroom => ?_, fun hn hroom => ?_⟩
  · exact exec_setter_commits (i := .setId3) (f := .id3) rfl hv rfl (by simp [arg1Count, hn]) (by simp [arg1Count, hn])
      (Slot.not_tooLong_of_width rfl hroom) (.inr rfl) (by simp)
  · exact exec_setter_commits (i := .setId5) (f := .id5) rfl hv rfl (by simp [arg1Count, hn]) (by simp [arg1Count, hn])
      (Slot.not_tooLong_of_width rfl hroom) (.inr rfl) (by simp)

/-- Settles O45: with its count in range every resized packet is at most 260 bytes long. -/
theorem setSizedFields : Obligations.SetSizedFields := by
  intro s n hn h1
  change arg1Count s = n at hn
  subst hn
  have hne : (arg1Count s == 0) = false := by simp; omega
  refine ⟨fun hv hle => ?_, fun hv hra hle => ?_, fun hv hle => ?_⟩
  · have hbad : decide (arg1Count s > Config.dataMax) = false := by simpa [Config.dataMax] using hle
    rcases hv with hv | hv <;>
      exact exec_setter_commits (i := .setDatas) (f := .datas) rfl hv rfl hne hbad rfl (.inl (by omega))
        (by simp; omega)
  · exact exec_setter_commits (i := .setAddrs) (f := .addrs) rfl hv rfl rfl (by simpa [hne] using hra) rfl
      (.inl (by omega)) (by simp; omega)
  · have hbad : decide (arg1Count s > Config.capsMax) = false := by simpa [Config.capsMax] using hle
    exact exec_setter_commits (i := .setCaps) (f := .caps) rfl hv rfl hne hbad rfl (.inl (by omega)) (by simp; omega)

/-! ### Operands out of range and packets too short -/

/-- Settles O47: tests 3 and 4, which no setter makes after looking at TOTLEN. -/
theorem setterOperandTests : Obligations.SetterOperandTests := by
  intro s v a n hv ha hn ends
  change arg1Count s = n at hn
  subst ha hn
  have habove := (arg0AboveByte_eq_true_iff s).mpr
  refine ⟨fun h => ⟨?_, ?_⟩, fun hvar h => ?_, fun hvar h => ?_, fun hvar h => ?_,
    fun hvar => ⟨fun h => ?_, fun h => ?_⟩, fun hvar h => ?_, fun hvar => ?_⟩
  · exact exec_setter_valueOutOfRange (i := .setDest) (f := .dest) rfl hv rfl rfl (habove h)
  · exact exec_setter_valueOutOfRange (i := .setSrc) (f := .src) rfl hv rfl rfl (habove h)
  · have hfield : (fieldSlot v .addr).isSome := by rcases hvar with rfl | rfl <;> rfl
    exact exec_setter_valueOutOfRange (i := .setAddr) rfl hv hfield rfl (by simpa using h)
  · have hfield : (fieldSlot v .count).isSome := by subst hvar; rfl
    exact exec_setter_valueOutOfRange (i := .setCount) rfl hv hfield rfl (by simp; omega)
  · have hfield : (fieldSlot v .data).isSome := by rcases hvar with rfl | rfl <;> rfl
    exact exec_setter_valueOutOfRange (i := .setData) rfl hv hfield rfl (habove h)
  · have hfield : (fieldSlot v .datas).isSome := by rcases hvar with rfl | rfl <;> rfl
    exact exec_setter_argumentInvalid (i := .setDatas) rfl hv hfield (by simp [h])
  · have hfield : (fieldSlot v .datas).isSome := by rcases hvar with rfl | rfl <;> rfl
    exact exec_setter_valueOutOfRange (i := .setDatas) rfl hv hfield (by simp; omega)
      (by simpa [Config.dataMax] using h)
  · have hfield : (fieldSlot v .addrs).isSome := by subst hvar; rfl
    exact exec_setter_valueOutOfRange (i := .setAddrs) rfl hv hfield rfl (by simpa using h)
  · subst hvar
    refine ⟨fun h => ⟨?_, ?_, ?_⟩, fun h0 h3 => ?_, fun h0 h5 => ?_, fun h => ?_⟩
    · exact exec_setter_argumentInvalid (i := .setId3) (f := .id3) rfl hv rfl (by simp [h])
    · exact exec_setter_argumentInvalid (i := .setId5) (f := .id5) rfl hv rfl (by simp [h])
    · exact exec_setter_argumentInvalid (i := .setCaps) (f := .caps) rfl hv rfl (by simp [h])
    · exact exec_setter_valueOutOfRange (i := .setId3) (f := .id3) rfl hv rfl (by simpa using h0) (by simpa using h3)
    · exact exec_setter_valueOutOfRange (i := .setId5) (f := .id5) rfl hv rfl (by simpa using h0) (by simpa using h5)
    · exact exec_setter_valueOutOfRange (i := .setCaps) (f := .caps) rfl hv rfl (by simp; omega)
        (by simpa [Config.capsMax] using h)

/-- Settles O48: test 5, for each place that a fixed-offset field has. -/
theorem settersRefuseShortPackets : Obligations.SettersRefuseShortPackets := by
  intro s v a n hv ha hn short
  change arg1Count s = n at hn
  subst ha hn
  refine ⟨fun hle hvar => ?_, fun hvar h1 hle hshort => ?_, fun hle hvar => ?_, fun hvar h3 hshort => ?_,
    fun hvar h5 hshort => ?_⟩
  · have hbad : decide ((operandArg0 s).toNat > 0xFFFFFF) = false := by simpa using hle
    obtain ⟨rfl, hshort⟩ | ⟨rfl, hshort⟩ := hvar <;>
      exact exec_setter_bufferTooShort (i := .setAddr) (f := .addr) rfl hv rfl rfl hbad
        (Slot.tooLong_of_width rfl hshort)
  · subst hvar
    exact exec_setter_bufferTooShort (i := .setCount) (f := .count) rfl hv rfl rfl (by simp; omega)
      (Slot.tooLong_of_width rfl hshort)
  · have hbad := (arg0AboveByte_eq_false_iff s).mpr hle
    obtain ⟨rfl, hshort⟩ | ⟨rfl, hshort⟩ := hvar <;>
      exact exec_setter_bufferTooShort (i := .setData) (f := .data) rfl hv rfl rfl hbad
        (Slot.tooLong_of_width rfl hshort)
  · subst hvar
    exact exec_setter_bufferTooShort (i := .setId3) (f := .id3) rfl hv rfl (by simp [h3]) (by simp [h3])
      (Slot.tooLong_of_width rfl hshort)
  · subst hvar
    exact exec_setter_bufferTooShort (i := .setId5) (f := .id5) rfl hv rfl (by simp [h5]) (by simp [h5])
      (Slot.tooLong_of_width rfl hshort)

/-! ### Reading back what a setter stored -/

theorem fieldSlot_off_le {v : Variant} {f : Field} {slot : Slot} (h : fieldSlot v f = some slot) : slot.off ≤ 13 := by
  cases f <;> cases v <;> cases h <;> decide

/-- A fixed-size setter that ended OK: its operand was in range, and the loaded variant's field holds the bytes. Five
bytes are the widest such field. -/
theorem setFixed_ok {f : Field} {empty bad : Bool} {bytes : List Byte} {s t : State} (hbytes : bytes.length ≤ 5)
    (ht : setFixed f empty bad bytes s = t) (hok : t.code = .ok) :
    bad = false ∧ ∃ v slot, t.variant = some v ∧ fieldSlot v f = some slot ∧ slot.tooLong t.totlen = false ∧
      ∀ k, k < bytes.length → pktAt t (slot.off + k) = bytes.getD k 0x00#8 := by
  subst ht
  rcases runSetter_cases f empty bad s (fun slot => commit slot.flag s.totlen slot.off bytes s) with
    ⟨c, hc, heq⟩ | ⟨v, slot, hv, hslot, -, hbad, hroom, heq⟩
  · rw [setFixed, heq] at hok
    exact absurd hok hc
  · rw [setFixed, heq]
    refine ⟨hbad, v, slot, hv, hslot, hroom, fun k hk => ?_⟩
    have hoff := fieldSlot_off_le hslot
    rw [pktAt_complete, pktAt_commit, if_pos (by omega), Nat.add_sub_cancel_left]

/-- The value that a getter of a field computes from the bytes its setter stored is the getter's result. -/
theorem getField_of_setFixed {f : Field} {empty bad : Bool} {bytes : List Byte} {s t : State} {value : Slot → Word}
    {w : Word} (hbytes : bytes.length ≤ 5) (ht : setFixed f empty bad bytes s = t) (hok : t.code = .ok)
    (hvalue : ∀ slot : Slot, bad = false →
      (∀ k, k < bytes.length → pktAt t (slot.off + k) = bytes.getD k 0x00#8) → value slot = w) :
    (getField f t value).code = .ok ∧ (getField f t value).res0 = w := by
  obtain ⟨hbad, v, slot, hv, hslot, hroom, hstored⟩ := setFixed_ok hbytes ht hok
  rw [getField_ok value hv hslot hroom]
  exact ⟨rfl, hvalue slot hbad hstored⟩

theorem setWidth_arg0Byte {s : State} (h : arg0AboveByte s = false) : (arg0Byte s).setWidth 32 = operandArg0 s := by
  have hle := (arg0AboveByte_eq_false_iff s).mp h
  apply BitVec.eq_of_toNat_eq
  rw [arg0Byte_eq, BitVec.toNat_setWidth, BitVec.toNat_ofNat]
  omega

/-- An identifier's setter and getter, which name the same offset on every variant (30_encoding R108). -/
theorem getAlways_of_setFixed {f : Field} {off : Nat} {flag : Flag} {s t : State}
    (hslot : ∀ v, fieldSlot v f = some ⟨off, none, flag⟩)
    (ht : setFixed f false (arg0AboveByte s) [arg0Byte s] s = t) (hok : t.code = .ok) :
    (getAlways (pktWord t off) t).code = .ok ∧ (getAlways (pktWord t off) t).res0 = operandArg0 s := by
  obtain ⟨hbad, v, slot, hv, hslot', -, hstored⟩ := setFixed_ok (by simp) ht hok
  obtain rfl := Option.some.inj ((hslot v).symm.trans hslot')
  have hbyte : pktAt t off = arg0Byte s := hstored 0 (by simp)
  rw [getAlways_some hv, pktWord, hbyte]
  exact ⟨rfl, setWidth_arg0Byte hbad⟩

/-- The three bytes of an address, read big-endian, are the address (30_encoding R120, 20_memory R68). -/
theorem be24_be24Bytes {w : Word} (h : w.toNat ≤ 0xFFFFFF) :
    be24 ((be24Bytes w).getD 0 0x00#8) ((be24Bytes w).getD 1 0x00#8) ((be24Bytes w).getD 2 0x00#8) = w := by
  apply BitVec.eq_of_toNat_eq
  simp [be24, be24Bytes_eq]
  omega

/-- A logical count, stored less one, reads back through the byte plus one (30_encoding R119). -/
theorem storedCount_succ {w : Word} (h1 : 1 ≤ w.toNat) (h256 : w.toNat ≤ 256) :
    (BitVec.ofNat 8 (w.toNat - 1)).setWidth 32 + 1#32 = w := by
  apply BitVec.eq_of_toNat_eq
  simp
  omega

/-- Settles O54: the identifiers, which every variant has, then the three fields of some variants. -/
theorem getReturnsWhatSetStored : Obligations.GetReturnsWhatSetStored := by
  intro put get s t u hrow _ hput hok hget
  simp only [List.mem_cons, Prod.mk.injEq, List.not_mem_nil, or_false] at hrow
  obtain ⟨rfl, rfl⟩ | ⟨rfl, rfl⟩ | ⟨rfl, rfl⟩ | ⟨rfl, rfl⟩ | ⟨rfl, rfl⟩ := hrow <;> cases hget <;>
    have hset := Host.Outcome.next.inj hput
  · exact getAlways_of_setFixed (fun _ => rfl) hset hok
  · exact getAlways_of_setFixed (fun _ => rfl) hset hok
  · refine getField_of_setFixed (by simp [be24Bytes]) hset hok fun slot hbad hstored => ?_
    have hbyte : ∀ k, k < 3 → pktAt t (slot.off + k) = (be24Bytes (operandArg0 s)).getD k 0x00#8 := hstored
    rw [pktBe24, show pktAt t slot.off = _ from hbyte 0 (by omega), hbyte 1 (by omega), hbyte 2 (by omega)]
    exact be24_be24Bytes (by simpa using hbad)
  · refine getField_of_setFixed (by simp) hset hok fun slot hbad hstored => ?_
    simp at hbad
    rw [pktWord, show pktAt t slot.off = _ from hstored 0 (by simp)]
    exact storedCount_succ (by omega) (by omega)
  · refine getField_of_setFixed (by simp) hset hok fun slot hbad hstored => ?_
    rw [pktWord, show pktAt t slot.off = _ from hstored 0 (by simp)]
    exact setWidth_arg0Byte hbad

end Sys2Proof.Machine
end

section
/-! PROOFS. The getters, test by test: the bytes that every packet has, the fields of fixed place, and the counts that
TOTLEN implies (43_field_getters R240 to R254). -/

namespace Sys2Proof.Machine

/-! ### The common procedures of the getters, test by test

An instruction is given by its procedure (`hexec`, by `rfl` for each getter). -/

section
variable {i : Instr} {f : Field} {value : Slot → Word} {v : Variant} {slot : Slot} {s : State}

/-- Test 1 of 43_field_getters R240, the only one of a getter that reads what every packet has. -/
theorem exec_getAlways_noPacket {w : Word} (hexec : exec i s = .next (getAlways w s)) (hv : s.variant = none) :
    exec i s = .next (complete .noPacket s) := by simp [hexec, getAlways, hv, raise]

theorem exec_getAlways_ok {w : Word} (hexec : exec i s = .next (getAlways w s)) (hv : s.variant = some v) :
    exec i s = .next (complete .ok { s with res0 := w }) := by rw [hexec, getAlways_some hv]

/-- Test 1 of 43_field_getters R240. -/
theorem exec_getField_noPacket (hexec : exec i s = .next (getField f s value)) (hv : s.variant = none) :
    exec i s = .next (complete .noPacket s) := by simp [hexec, getField, hv, raise]

/-- Test 2 of 43_field_getters R240. -/
theorem exec_getField_fieldNotApplicable (hexec : exec i s = .next (getField f s value)) (hv : s.variant = some v)
    (hnot : v ∉ variantsWith f) : exec i s = .next (complete .fieldNotApplicable s) := by
  simp [hexec, getField, hv, fieldSlot_eq_none_iff.mpr hnot, raise]

/-- Test 3 of 43_field_getters R240. -/
theorem exec_getField_bufferTooShort (hexec : exec i s = .next (getField f s value)) (hv : s.variant = some v)
    (hslot : fieldSlot v f = some slot) (hshort : slot.tooLong s.totlen = true) :
    exec i s = .next (complete .bufferTooShort s) := by simp [hexec, getField, hv, hslot, hshort, raise]

theorem exec_getField_ok (hexec : exec i s = .next (getField f s value)) (hv : s.variant = some v)
    (hslot : fieldSlot v f = some slot) (hroom : slot.tooLong s.totlen = false) :
    exec i s = .next (complete .ok { s with res0 := value slot }) := by rw [hexec, getField_ok value hv hslot hroom]

end

/-! ### What every packet has -/

theorem pktWord_eq_ofNat (s : State) (j : Nat) : pktWord s j = BitVec.ofNat 32 (pktAt s j).toNat :=
  (BitVec.ofNat_toNat 32 (pktAt s j)).symm

/-- Settles O51: six bytes of PKT and the key, each the value of the one procedure. -/
theorem headerGetters : Obligations.HeaderGetters := by
  intro s i value hrow
  have hexec : exec i s = .next (getAlways (BitVec.ofNat 32 value) s) := by
    simp only [List.mem_cons, Prod.mk.injEq, List.not_mem_nil, or_false] at hrow
    obtain ⟨rfl, rfl⟩ | ⟨rfl, rfl⟩ | ⟨rfl, rfl⟩ | ⟨rfl, rfl⟩ | ⟨rfl, rfl⟩ | ⟨rfl, rfl⟩ | ⟨rfl, rfl⟩ := hrow
    case inr.inr.inr.inr.inr.inl => rfl
    all_goals rw [← pktWord_eq_ofNat]; rfl
  exact ⟨exec_getAlways_noPacket hexec, fun v => exec_getAlways_ok hexec⟩

/-! ### Fields of fixed place and width -/

/-- Test 3 and the value, for a field of fixed width that the loaded variant has: the two sides of the size test. -/
theorem exec_getField_fixed {i : Instr} {f : Field} {v : Variant} {off width n : Nat} {flag : Flag}
    {value : Slot → Word} {s : State} (hexec : exec i s = .next (getField f s value)) (hv : s.variant = some v)
    (hslot : fieldSlot v f = some ⟨off, some width, flag⟩)
    (hvalue : value ⟨off, some width, flag⟩ = BitVec.ofNat 32 n) :
    (off + width ≤ s.totlen - 1 → exec i s = .next (complete .ok { s with res0 := BitVec.ofNat 32 n })) ∧
      (s.totlen - 1 < off + width → exec i s = .next (complete .bufferTooShort s)) := by
  rw [← hvalue]
  exact ⟨fun hroom => exec_getField_ok hexec hv hslot (Slot.not_tooLong_of_width rfl hroom),
    fun hshort => exec_getField_bufferTooShort hexec hv hslot (Slot.tooLong_of_width rfl hshort)⟩

/-- The count of a read-blocks request is stored less one (30_encoding R119). -/
theorem pktWord_succ_eq_ofNat (s : State) (j : Nat) :
    pktWord s j + 1#32 = BitVec.ofNat 32 ((pktAt s j).toNat + 1) := by
  rw [pktWord_eq_ofNat, BitVec.ofNat_add]

/-- Settles O52: the first two tests by the field, the third and the value by the place that each variant gives it. -/
theorem fieldGetters : Obligations.FieldGetters := by
  intro s i
  simp only [List.mem_cons, Prod.mk.injEq, List.not_mem_nil, or_false]
  refine ⟨fun hi hv => ?_, fun v variants hrow hv hnot => ?_, fun v off width value hrow hv => ?_⟩
  · obtain rfl | rfl | rfl | rfl := hi <;> exact exec_getField_noPacket rfl hv
  · obtain ⟨rfl, rfl⟩ | ⟨rfl, rfl⟩ | ⟨rfl, rfl⟩ | ⟨rfl, rfl⟩ := hrow <;>
      exact exec_getField_fieldNotApplicable rfl hv hnot
  · obtain ⟨rfl, rfl, rfl, rfl, rfl⟩ | ⟨rfl, rfl, rfl, rfl, rfl⟩ | ⟨rfl, rfl, rfl, rfl, rfl⟩ |
      ⟨rfl, rfl, rfl, rfl, rfl⟩ | ⟨rfl, rfl, rfl, rfl, rfl⟩ | ⟨rfl, rfl, rfl, rfl, rfl⟩ := hrow
    · exact exec_getField_fixed (i := .getAddr) (f := .addr) rfl hv rfl rfl
    · exact exec_getField_fixed (i := .getAddr) (f := .addr) rfl hv rfl rfl
    · exact exec_getField_fixed (i := .getCount) (f := .count) rfl hv rfl (pktWord_succ_eq_ofNat s 9)
    · exact exec_getField_fixed (i := .getData) (f := .data) rfl hv rfl (pktWord_eq_ofNat s 8)
    · exact exec_getField_fixed (i := .getData) (f := .data) rfl hv rfl (pktWord_eq_ofNat s 5)
    · exact exec_getField_fixed (i := .getId3) (f := .id3) rfl hv rfl rfl

/-! ### Counts that TOTLEN implies -/

/-- The fields whose setter sets the size make no size test (42_field_setters R208, R209, R212). -/
theorem fieldSlot_not_tooLong {f : Field} (hf : f ∈ [Field.datas, .addrs, .caps]) {v : Variant} {slot : Slot}
    (hslot : fieldSlot v f = some slot) (n : Nat) : slot.tooLong n = false := by
  simp only [List.mem_cons, List.not_mem_nil, or_false] at hf
  obtain rfl | rfl | rfl := hf <;> cases v <;> cases hslot <;> rfl

/-- Every outcome of a getter that counts a field by TOTLEN: tests 1 and 2, then the count. -/
theorem exec_getField_count {i : Instr} {f : Field} {n : Nat} {s : State} (hf : f ∈ [Field.datas, .addrs, .caps])
    (hexec : exec i s = .next (getField f s fun _ => BitVec.ofNat 32 n)) :
    (s.variant = none → exec i s = .next (complete .noPacket s)) ∧ ∀ v, s.variant = some v →
      (v ∉ variantsWith f → exec i s = .next (complete .fieldNotApplicable s)) ∧
      (v ∈ variantsWith f → exec i s = .next (complete .ok { s with res0 := BitVec.ofNat 32 n })) := by
  refine ⟨exec_getField_noPacket hexec,
    fun v hv => ⟨exec_getField_fieldNotApplicable hexec hv, fun hmem => ?_⟩⟩
  obtain ⟨slot, hslot⟩ := Option.ne_none_iff_exists'.mp fun hnone => fieldSlot_eq_none_iff.mp hnone hmem
  exact exec_getField_ok hexec hv hslot (fieldSlot_not_tooLong hf hslot s.totlen)

/-- Settles O53: each count is clamped before or after it is widened to RES0. -/
theorem countGetters : Obligations.CountGetters := by
  intro s i variants count hrow
  simp only [List.mem_cons, Prod.mk.injEq, List.not_mem_nil, or_false] at hrow
  obtain ⟨rfl, rfl, rfl⟩ | ⟨rfl, rfl, rfl⟩ | ⟨rfl, rfl, rfl⟩ := hrow
  · exact exec_getField_count (f := .datas) (by decide) (by rw [apply_ite (BitVec.ofNat 32)]; rfl)
  · exact exec_getField_count (f := .addrs) (by decide) (by rw [apply_ite (BitVec.ofNat 32)]; rfl)
  · exact exec_getField_count (f := .caps) (by decide) (by rw [apply_ite (BitVec.ofNat 32)]; rfl)

end Sys2Proof.Machine
end

section
/-! PROOFS. The outcome codes that each operation can end with, one lemma for each shared procedure and for each
lifecycle operation (60_exceptions R280, R291). -/

namespace Sys2Proof.Machine

/-! ### The tests of the setters and the getters -/

/-- The outcomes of the tests that the setter and the getter of a field share (42_field_setters R200, 43_field_getters
R240): a test that no variant can fail for this field raises nothing. -/
def fieldTestCodes (f : Field) : List Code :=
  [.ok, .noPacket] ++
    (if ∃ v ∈ allVariants, fieldSlot v f = none then [.fieldNotApplicable] else []) ++
    (if ∃ v ∈ allVariants, (fieldSlot v f).any (·.width.isSome) then [.bufferTooShort] else [])

theorem ok_mem_fieldTestCodes (f : Field) : .ok ∈ fieldTestCodes f := by simp [fieldTestCodes]

theorem noPacket_mem_fieldTestCodes (f : Field) : .noPacket ∈ fieldTestCodes f := by simp [fieldTestCodes]

theorem fieldNotApplicable_mem_fieldTestCodes {f : Field} {v : Variant} (h : fieldSlot v f = none) :
    .fieldNotApplicable ∈ fieldTestCodes f := by
  have hv : ∃ v ∈ allVariants, fieldSlot v f = none := ⟨v, mem_allVariants v, h⟩
  rw [fieldTestCodes, if_pos hv]
  simp

theorem bufferTooShort_mem_fieldTestCodes {f : Field} {v : Variant} {slot : Slot} {n : Nat}
    (hslot : fieldSlot v f = some slot) (hshort : slot.tooLong n = true) : .bufferTooShort ∈ fieldTestCodes f := by
  have hwidth : slot.width.isSome := by
    cases hw : slot.width with
    | none => simp [Slot.tooLong, hw] at hshort
    | some w => rfl
  have hv : ∃ v ∈ allVariants, (fieldSlot v f).any (·.width.isSome) :=
    ⟨v, mem_allVariants v, by simp [hslot, hwidth]⟩
  rw [fieldTestCodes, if_pos hv]
  simp

theorem getField_code_mem {f : Field} {s : State} {value : Slot → Word} {codes : List Code}
    (hfield : fieldTestCodes f ⊆ codes) : (getField f s value).code ∈ codes := by
  unfold getField
  split
  · exact hfield (noPacket_mem_fieldTestCodes f)
  · split
    · next hslot => exact hfield (fieldNotApplicable_mem_fieldTestCodes hslot)
    · next hslot =>
      split
      · next hshort => exact hfield (bufferTooShort_mem_fieldTestCodes hslot hshort)
      · exact hfield (ok_mem_fieldTestCodes f)

/-- A setter adds the two operand tests, the first only where an empty operand is told apart from one out of range. -/
theorem runSetter_code_mem {f : Field} {empty bad : Bool} {s : State} {body : Slot → State} {codes : List Code}
    (hfield : fieldTestCodes f ⊆ codes) (hvalue : .valueOutOfRange ∈ codes)
    (hempty : empty = true → .argumentInvalid ∈ codes) : (runSetter f empty bad s body).code ∈ codes := by
  unfold runSetter
  split
  · exact hfield (noPacket_mem_fieldTestCodes f)
  · split
    · next hslot => exact hfield (fieldNotApplicable_mem_fieldTestCodes hslot)
    · next hslot =>
      split
      · next h => exact hempty h
      · split
        · exact hvalue
        · split
          · next hshort => exact hfield (bufferTooShort_mem_fieldTestCodes hslot hshort)
          · exact hfield (ok_mem_fieldTestCodes f)

theorem getAlways_code_mem (value : Word) (s : State) : (getAlways value s).code ∈ [Code.ok, .noPacket] := by
  rcases getAlways_cases value s with ⟨_, h⟩ | ⟨_, _, h⟩ <;> simp [h]

/-! ### The lifecycle and CSUM -/

theorem exists_code_of_wellFormed {var : BitVec 4} (h : (Instr.new var).WellFormed) :
    ∃ v : Variant, v.code = var.toNat := by
  have hcodes : ∀ var : BitVec 4, 1 ≤ var.toNat ∧ var.toNat ≤ 8 →
      ∃ v ∈ allVariants, v.code = var.toNat := by decide
  obtain ⟨v, _, hv⟩ := hcodes var h
  exact ⟨v, hv⟩

/-- NEW of a legal variant code cannot fail (60_exceptions R291). -/
theorem execNew_code {var : BitVec 4} {s t : State} (hwf : (Instr.new var).WellFormed) (h : execNew var s = .next t) :
    t.code = .ok := by
  obtain ⟨v, hv⟩ := exists_code_of_wellFormed hwf
  rw [execNew_of_code hv] at h
  cases h
  rfl

theorem loadPacket_code_mem (v : Variant) (s : State) : (loadPacket v s).code ∈ [Code.ok, .bufferTooShort] := by
  rcases loadPacket_cases v s with ⟨_, h⟩ | ⟨_, _, h⟩ <;> simp [h, decodeFail]

theorem execDecode_code_mem {s t : State} (h : execDecode s = .next t) :
    t.code ∈ [Code.ok, .bufferTooShort, .unrecognizedCommand] := by
  rcases Nat.lt_or_ge (operandBuflen s) 6 with hbuf | hbuf
  · rw [execDecode_shortBuffer hbuf] at h
    cases h
    simp [decodeFail]
  · cases hv : s.cmdTable.variantOf (pktAt s 4) with
    | none =>
      rw [execDecode_unrecognized hbuf hv] at h
      cases h
      simp [decodeFail]
    | some v =>
      rw [execDecode_of_variantOf hbuf hv] at h
      cases h
      have hsub : [Code.ok, .bufferTooShort] ⊆ [.ok, .bufferTooShort, .unrecognizedCommand] := by decide
      exact hsub (loadPacket_code_mem v s)

theorem execFinish_code_mem {s t : State} (h : execFinish s = .next t) :
    t.code ∈ [Code.ok, .packetIncomplete, .noPacket] := by
  cases hv : s.variant with
  | none =>
    rw [execFinish_noPacket hv] at h
    cases h
    simp
  | some v =>
    by_cases hok : s.flags = allOk
    · rw [execFinish_allOk hv hok] at h
      cases h
      simp
    · by_cases habc : s.flags = allButChecksum
      · rw [execFinish_allButChecksum hv habc] at h
        cases h
        simp [stampedState]
      · rw [execFinish_incomplete hv hok habc] at h
        cases h
        simp

/-- CHECK cannot fail: its verdict is a result, not an outcome (41_framer_lifecycle R176). -/
theorem execCheck_code {s t : State} (h : execCheck s = .next t) : t.code = .ok := by
  cases hv : s.variant with
  | none =>
    rw [execCheck_none hv] at h
    cases h
    rfl
  | some v =>
    rw [execCheck_some hv] at h
    cases h
    rfl

theorem execCsum_code_mem {s t : State} (h : execCsum s = .next t) : t.code ∈ [Code.ok, .valueOutOfRange] := by
  by_cases hrange : 1 ≤ (operandArg0 s).toNat ∧ (operandArg0 s).toNat ≤ 260
  · obtain ⟨h1, h260⟩ := hrange
    rw [execCsum_inRange h1 h260] at h
    cases h
    simp
  · rw [execCsum_outOfRange (by omega)] at h
    cases h
    simp

/-! ### Every operation -/

/-- Settles O56: each family by the codes of its procedure; for a setter or a getter of a field, those of the tests that
some variant can fail for that field. -/
theorem outcomesOfOperations : Obligations.OutcomesOfOperations := by
  intro i s t hwf h
  cases i
  case new var => exact List.mem_singleton.mpr (execNew_code hwf h)
  case decode => exact execDecode_code_mem h
  case finish => exact execFinish_code_mem h
  case check => exact List.mem_singleton.mpr (execCheck_code h)
  case csum => exact execCsum_code_mem h
  case release => cases h; exact List.mem_singleton.mpr rfl
  case setDest | setSrc | setAddr | setCount | setData | setAddrs =>
    cases h
    exact runSetter_code_mem (by decide) (by decide) (by simp)
  case setDatas | setId3 | setId5 | setCaps =>
    cases h
    exact runSetter_code_mem (by decide) (by decide) fun _ => by decide
  case getDest | getSrc | getLen | getCmd | getChecksum | getKey | getHeader =>
    cases h
    exact getAlways_code_mem _ s
  case getAddr | getCount | getData | getId3 | getDatacount | getAddrcount | getCaplen =>
    cases h
    exact getField_code_mem (by decide)
  case initrq | initrs | rbrq | rbrs | rarq | rars | warq | wars =>
    cases h
    exact loadPacket_code_mem _ s

end Sys2Proof.Machine
end
